-- ==== Sys2Proof/Word.lean ====
section
/-! DEFINITION. The machine's two units of data: the 8-bit byte of the code buffer and the 256-bit Word of the
operand stack (spec/00_scope.md rules R5, R6). A Word's arithmetic lives in Machine/Operands.lean and in the
family files, where a repair can mend it. -/

namespace Sys2Proof

/-- A byte of the code buffer, and an opcode ("a single byte", R5 OPCODE_BITS). -/
abbrev Byte := BitVec 8

/-- A Word: an unsigned integer in the range [0, 2^256) (R6), held as its 256 bits, bit 0 the least significant (R7). -/
abbrev Word := BitVec 256

/-- WORD_BITS (R5), fixed. -/
abbrev wordBits : Nat := 256

/-- MAX_IMM_BYTES (R5): the widest immediate, that of PUSH32. -/
abbrev maxImmBytes : Nat := 32

end Sys2Proof
end

