-- ==== Sys2Proof/Syntax.lean ====
section
/-! DEFINITION. The instruction set as syntax: one constructor for each of the 92 defined opcode bytes of
spec/30_encoding.md rule R64, in the order of spec/opcode_table.json, and one for the table's rows of undefined bytes
(R69), whose field is the byte itself. The immediate of PUSHn is its n bytes as one number of 8n bits (R63). -/

namespace Sys2Proof

/-- An instruction (R60): an opcode, and for PUSH1 to PUSH32 an immediate. No instruction has a register, mode or
function field; every other operand comes from the operand stack. -/
inductive Instr where
  /-- STOP, 0x00 (R82). -/
  | stop
  /- Arithmetic, 0x01 to 0x0B (R100 to R110). -/
  | add
  | mul
  | sub
  | div
  | sdiv
  | mod
  | smod
  | addmod
  | mulmod
  | exp
  | signextend
  /- Comparison, 0x10 to 0x15 (R140 to R145). -/
  | lt
  | gt
  | slt
  | sgt
  | eq
  | iszero
  /- Bitwise, 0x16 to 0x19 (R146 to R149). -/
  | and
  | or
  | xor
  | not
  /- Byte extraction and shifts, 0x1A to 0x1D (R150 to R153). -/
  | byte
  | shl
  | shr
  | sar
  /- Stack moves: POP, 0x50 (R180); PUSH0 to PUSH32, 0x5F to 0x7F (R182 to R214);
  DUP1 to DUP16, 0x80 to 0x8F (R216 to R231); SWAP1 to SWAP16, 0x90 to 0x9F (R233 to R248). -/
  | pop
  | push0
  | push1 (imm : BitVec 8)
  | push2 (imm : BitVec 16)
  | push3 (imm : BitVec 24)
  | push4 (imm : BitVec 32)
  | push5 (imm : BitVec 40)
  | push6 (imm : BitVec 48)
  | push7 (imm : BitVec 56)
  | push8 (imm : BitVec 64)
  | push9 (imm : BitVec 72)
  | push10 (imm : BitVec 80)
  | push11 (imm : BitVec 88)
  | push12 (imm : BitVec 96)
  | push13 (imm : BitVec 104)
  | push14 (imm : BitVec 112)
  | push15 (imm : BitVec 120)
  | push16 (imm : BitVec 128)
  | push17 (imm : BitVec 136)
  | push18 (imm : BitVec 144)
  | push19 (imm : BitVec 152)
  | push20 (imm : BitVec 160)
  | push21 (imm : BitVec 168)
  | push22 (imm : BitVec 176)
  | push23 (imm : BitVec 184)
  | push24 (imm : BitVec 192)
  | push25 (imm : BitVec 200)
  | push26 (imm : BitVec 208)
  | push27 (imm : BitVec 216)
  | push28 (imm : BitVec 224)
  | push29 (imm : BitVec 232)
  | push30 (imm : BitVec 240)
  | push31 (imm : BitVec 248)
  | push32 (imm : BitVec 256)
  | dup1
  | dup2
  | dup3
  | dup4
  | dup5
  | dup6
  | dup7
  | dup8
  | dup9
  | dup10
  | dup11
  | dup12
  | dup13
  | dup14
  | dup15
  | dup16
  | swap1
  | swap2
  | swap3
  | swap4
  | swap5
  | swap6
  | swap7
  | swap8
  | swap9
  | swap10
  | swap11
  | swap12
  | swap13
  | swap14
  | swap15
  | swap16
  /-- An undefined byte (R69), one constructor for the table's twelve rows UNDEFINED: all 164 bytes behave alike (R86).
  The field is the byte; that it is one of the 164 is WellFormed's check. -/
  | undefined (op : Byte)
deriving DecidableEq, Repr

end Sys2Proof
end

