-- ==== Sys2Proof/WellFormed.lean ====
section
/-! DEFINITION. What is asked of an instruction beyond its type. The width of a PUSHn immediate is its type's; the one
check left is that the byte of `undefined` is one of the 164 of spec/30_encoding.md rule R69. -/

namespace Sys2Proof

/-- The 164 undefined bytes: 0x0C to 0x0F, 0x1E to 0x4F, 0x51 to 0x5E and 0xA0 to 0xFF (R69). -/
def isUndefinedByte (op : Byte) : Bool :=
  (0x0C ≤ op && op ≤ 0x0F) || (0x1E ≤ op && op ≤ 0x4F) || (0x51 ≤ op && op ≤ 0x5E) || 0xA0 ≤ op

/-- An instruction is well formed if its fields are ones its encoding admits. -/
def Instr.wellFormed : Instr → Bool
  | .undefined op => isUndefinedByte op
  | .stop | .add | .mul | .sub | .div | .sdiv | .mod | .smod | .addmod | .mulmod | .exp | .signextend | .lt
  | .gt | .slt | .sgt | .eq | .iszero | .and | .or | .xor | .not | .byte | .shl | .shr | .sar | .pop | .push0
  | .push1 _ | .push2 _ | .push3 _ | .push4 _ | .push5 _ | .push6 _ | .push7 _ | .push8 _ | .push9 _ | .push10 _
  | .push11 _ | .push12 _ | .push13 _ | .push14 _ | .push15 _ | .push16 _ | .push17 _ | .push18 _ | .push19 _
  | .push20 _ | .push21 _ | .push22 _ | .push23 _ | .push24 _ | .push25 _ | .push26 _ | .push27 _ | .push28 _
  | .push29 _ | .push30 _ | .push31 _ | .push32 _ | .dup1 | .dup2 | .dup3 | .dup4 | .dup5 | .dup6 | .dup7
  | .dup8 | .dup9 | .dup10 | .dup11 | .dup12 | .dup13 | .dup14 | .dup15 | .dup16 | .swap1 | .swap2 | .swap3
  | .swap4 | .swap5 | .swap6 | .swap7 | .swap8 | .swap9 | .swap10 | .swap11 | .swap12 | .swap13 | .swap14
  | .swap15 | .swap16 => true

/-- Well-formedness as a proposition, for statements. -/
abbrev Instr.WellFormed (i : Instr) : Prop := i.wellFormed = true

end Sys2Proof
end

