-- ==== Sys2Proof/Decode.lean ====
section
/-! DEFINITION. The decoder and the encoder, both written from the encoding tables of spec/30_encoding.md: formats and
lengths R60 to R63, the opcode map R64, the undefined bytes R69. The decoder is total on bytes: it rejects, by name,
only the empty sequence; R71 gives every opcode byte a meaning. -/

namespace Sys2Proof

/-- Why the decoder reads no instruction. -/
inductive DecodeError where
  /-- There is no opcode byte: the sequence is empty. Where the loop meets this it is the end of the code (R81). -/
  | noOpcode
deriving DecidableEq, Repr

/-! ### Bytes and numbers -/

/-- Big-endian assembly (R10): the first byte is the most significant, the empty sequence gives 0. -/
def be (bs : List Byte) : Nat := bs.foldl (fun acc b => acc * 256 + b.toNat) 0

/-- The `n` big-endian bytes of a number (R10, R60 Format P), of which only the low 8n bits count. -/
def beBytes : Nat → Nat → List Byte
  | 0, _ => []
  | n + 1, v => BitVec.ofNat 8 (v / 256 ^ n) :: beBytes n v

/-- The first `n` bytes of a sequence, a missing byte reading as 0x00 (R46, ZeroPad). -/
def takePadded : Nat → List Byte → List Byte
  | 0, _ => []
  | n + 1, [] => 0 :: takePadded n []
  | n + 1, b :: bs => b :: takePadded n bs

/-- The value of an `n`-byte immediate standing at the head of a byte sequence (R63). -/
def immediateAt (n : Nat) (bs : List Byte) : Nat := be (takePadded n bs)

/-! ### Decoding -/

/-- The immediate width of an opcode byte (R62): a function of the byte alone. -/
def immWidth (op : Byte) : Nat :=
  if 0x60 ≤ op ∧ op ≤ 0x7F then op.toNat - 0x5F else 0

/-- PUSHn by its parameter n, from 0 to 32, with its immediate (R65, R181). The last arm is n = 32. -/
def pushOf (n imm : Nat) : Instr :=
  match n with
  | 0 => .push0
  | 1 => .push1 (.ofNat 8 imm)
  | 2 => .push2 (.ofNat 16 imm)
  | 3 => .push3 (.ofNat 24 imm)
  | 4 => .push4 (.ofNat 32 imm)
  | 5 => .push5 (.ofNat 40 imm)
  | 6 => .push6 (.ofNat 48 imm)
  | 7 => .push7 (.ofNat 56 imm)
  | 8 => .push8 (.ofNat 64 imm)
  | 9 => .push9 (.ofNat 72 imm)
  | 10 => .push10 (.ofNat 80 imm)
  | 11 => .push11 (.ofNat 88 imm)
  | 12 => .push12 (.ofNat 96 imm)
  | 13 => .push13 (.ofNat 104 imm)
  | 14 => .push14 (.ofNat 112 imm)
  | 15 => .push15 (.ofNat 120 imm)
  | 16 => .push16 (.ofNat 128 imm)
  | 17 => .push17 (.ofNat 136 imm)
  | 18 => .push18 (.ofNat 144 imm)
  | 19 => .push19 (.ofNat 152 imm)
  | 20 => .push20 (.ofNat 160 imm)
  | 21 => .push21 (.ofNat 168 imm)
  | 22 => .push22 (.ofNat 176 imm)
  | 23 => .push23 (.ofNat 184 imm)
  | 24 => .push24 (.ofNat 192 imm)
  | 25 => .push25 (.ofNat 200 imm)
  | 26 => .push26 (.ofNat 208 imm)
  | 27 => .push27 (.ofNat 216 imm)
  | 28 => .push28 (.ofNat 224 imm)
  | 29 => .push29 (.ofNat 232 imm)
  | 30 => .push30 (.ofNat 240 imm)
  | 31 => .push31 (.ofNat 248 imm)
  | _ => .push32 (.ofNat 256 imm)

/-- DUPn by its parameter n, from 1 to 16 (R65, R215). The last arm is n = 16. -/
def dupOf (n : Nat) : Instr :=
  match n with
  | 1 => .dup1
  | 2 => .dup2
  | 3 => .dup3
  | 4 => .dup4
  | 5 => .dup5
  | 6 => .dup6
  | 7 => .dup7
  | 8 => .dup8
  | 9 => .dup9
  | 10 => .dup10
  | 11 => .dup11
  | 12 => .dup12
  | 13 => .dup13
  | 14 => .dup14
  | 15 => .dup15
  | _ => .dup16

/-- SWAPn by its parameter n, from 1 to 16 (R65, R232). The last arm is n = 16. -/
def swapOf (n : Nat) : Instr :=
  match n with
  | 1 => .swap1
  | 2 => .swap2
  | 3 => .swap3
  | 4 => .swap4
  | 5 => .swap5
  | 6 => .swap6
  | 7 => .swap7
  | 8 => .swap8
  | 9 => .swap9
  | 10 => .swap10
  | 11 => .swap11
  | 12 => .swap12
  | 13 => .swap13
  | 14 => .swap14
  | 15 => .swap15
  | _ => .swap16

/-- The instruction that an opcode byte selects (R64), its immediate read from the bytes after it. The three ranged
families are found by the byte's position in its range (R65); every byte with no row in the map is an undefined
byte (R69, R71). -/
def decodeOpcode (op : Byte) (rest : List Byte) : Instr :=
  if 0x5F ≤ op ∧ op ≤ 0x7F then
    pushOf (op.toNat - 0x5F) (immediateAt (op.toNat - 0x5F) rest)
  else if 0x80 ≤ op ∧ op ≤ 0x8F then
    dupOf (op.toNat - 0x7F)
  else if 0x90 ≤ op ∧ op ≤ 0x9F then
    swapOf (op.toNat - 0x8F)
  else if op = 0x50 then
    .pop
  else
    match op.toNat with
    | 0x00 => .stop
    | 0x01 => .add
    | 0x02 => .mul
    | 0x03 => .sub
    | 0x04 => .div
    | 0x05 => .sdiv
    | 0x06 => .mod
    | 0x07 => .smod
    | 0x08 => .addmod
    | 0x09 => .mulmod
    | 0x0A => .exp
    | 0x0B => .signextend
    | 0x10 => .lt
    | 0x11 => .gt
    | 0x12 => .slt
    | 0x13 => .sgt
    | 0x14 => .eq
    | 0x15 => .iszero
    | 0x16 => .and
    | 0x17 => .or
    | 0x18 => .xor
    | 0x19 => .not
    | 0x1A => .byte
    | 0x1B => .shl
    | 0x1C => .shr
    | 0x1D => .sar
    | _ => .undefined op

/-- Read one instruction from the head of a byte sequence: the instruction, and the bytes after it (R60, R67). -/
def decode : List Byte → Except DecodeError (Instr × List Byte)
  | [] => .error .noOpcode
  | op :: rest => .ok (decodeOpcode op rest, rest.drop (immWidth op))

/-! ### Encoding -/

/-- The opcode byte of an instruction (R64). -/
def Instr.opcode : Instr → Byte
  | .stop => 0x00
  | .add => 0x01
  | .mul => 0x02
  | .sub => 0x03
  | .div => 0x04
  | .sdiv => 0x05
  | .mod => 0x06
  | .smod => 0x07
  | .addmod => 0x08
  | .mulmod => 0x09
  | .exp => 0x0A
  | .signextend => 0x0B
  | .lt => 0x10
  | .gt => 0x11
  | .slt => 0x12
  | .sgt => 0x13
  | .eq => 0x14
  | .iszero => 0x15
  | .and => 0x16
  | .or => 0x17
  | .xor => 0x18
  | .not => 0x19
  | .byte => 0x1A
  | .shl => 0x1B
  | .shr => 0x1C
  | .sar => 0x1D
  | .pop => 0x50
  | .push0 => 0x5F
  | .push1 _ => 0x60
  | .push2 _ => 0x61
  | .push3 _ => 0x62
  | .push4 _ => 0x63
  | .push5 _ => 0x64
  | .push6 _ => 0x65
  | .push7 _ => 0x66
  | .push8 _ => 0x67
  | .push9 _ => 0x68
  | .push10 _ => 0x69
  | .push11 _ => 0x6A
  | .push12 _ => 0x6B
  | .push13 _ => 0x6C
  | .push14 _ => 0x6D
  | .push15 _ => 0x6E
  | .push16 _ => 0x6F
  | .push17 _ => 0x70
  | .push18 _ => 0x71
  | .push19 _ => 0x72
  | .push20 _ => 0x73
  | .push21 _ => 0x74
  | .push22 _ => 0x75
  | .push23 _ => 0x76
  | .push24 _ => 0x77
  | .push25 _ => 0x78
  | .push26 _ => 0x79
  | .push27 _ => 0x7A
  | .push28 _ => 0x7B
  | .push29 _ => 0x7C
  | .push30 _ => 0x7D
  | .push31 _ => 0x7E
  | .push32 _ => 0x7F
  | .dup1 => 0x80
  | .dup2 => 0x81
  | .dup3 => 0x82
  | .dup4 => 0x83
  | .dup5 => 0x84
  | .dup6 => 0x85
  | .dup7 => 0x86
  | .dup8 => 0x87
  | .dup9 => 0x88
  | .dup10 => 0x89
  | .dup11 => 0x8A
  | .dup12 => 0x8B
  | .dup13 => 0x8C
  | .dup14 => 0x8D
  | .dup15 => 0x8E
  | .dup16 => 0x8F
  | .swap1 => 0x90
  | .swap2 => 0x91
  | .swap3 => 0x92
  | .swap4 => 0x93
  | .swap5 => 0x94
  | .swap6 => 0x95
  | .swap7 => 0x96
  | .swap8 => 0x97
  | .swap9 => 0x98
  | .swap10 => 0x99
  | .swap11 => 0x9A
  | .swap12 => 0x9B
  | .swap13 => 0x9C
  | .swap14 => 0x9D
  | .swap15 => 0x9E
  | .swap16 => 0x9F
  | .undefined op => op

/-- N of PUSHN, for N from 0 to 32 (R181). -/
def Instr.pushWidth : Instr → Option Nat
  | .push0 => some 0
  | .push1 _ => some 1
  | .push2 _ => some 2
  | .push3 _ => some 3
  | .push4 _ => some 4
  | .push5 _ => some 5
  | .push6 _ => some 6
  | .push7 _ => some 7
  | .push8 _ => some 8
  | .push9 _ => some 9
  | .push10 _ => some 10
  | .push11 _ => some 11
  | .push12 _ => some 12
  | .push13 _ => some 13
  | .push14 _ => some 14
  | .push15 _ => some 15
  | .push16 _ => some 16
  | .push17 _ => some 17
  | .push18 _ => some 18
  | .push19 _ => some 19
  | .push20 _ => some 20
  | .push21 _ => some 21
  | .push22 _ => some 22
  | .push23 _ => some 23
  | .push24 _ => some 24
  | .push25 _ => some 25
  | .push26 _ => some 26
  | .push27 _ => some 27
  | .push28 _ => some 28
  | .push29 _ => some 29
  | .push30 _ => some 30
  | .push31 _ => some 31
  | .push32 _ => some 32
  | .undefined _
  | .stop | .add | .mul | .sub | .div | .sdiv | .mod | .smod | .addmod | .mulmod | .exp | .signextend | .lt
  | .gt | .slt | .sgt | .eq | .iszero | .and | .or | .xor | .not | .byte | .shl | .shr | .sar | .pop | .dup1
  | .dup2 | .dup3 | .dup4 | .dup5 | .dup6 | .dup7 | .dup8 | .dup9 | .dup10 | .dup11 | .dup12 | .dup13 | .dup14
  | .dup15 | .dup16 | .swap1 | .swap2 | .swap3 | .swap4 | .swap5 | .swap6 | .swap7 | .swap8 | .swap9 | .swap10
  | .swap11 | .swap12 | .swap13 | .swap14 | .swap15 | .swap16 => none

/-- The value of the immediate; 0 where there is none, which for PUSH0 is the constant it pushes (R63). -/
def Instr.immediate : Instr → Nat
  | .push1 imm => imm.toNat
  | .push2 imm => imm.toNat
  | .push3 imm => imm.toNat
  | .push4 imm => imm.toNat
  | .push5 imm => imm.toNat
  | .push6 imm => imm.toNat
  | .push7 imm => imm.toNat
  | .push8 imm => imm.toNat
  | .push9 imm => imm.toNat
  | .push10 imm => imm.toNat
  | .push11 imm => imm.toNat
  | .push12 imm => imm.toNat
  | .push13 imm => imm.toNat
  | .push14 imm => imm.toNat
  | .push15 imm => imm.toNat
  | .push16 imm => imm.toNat
  | .push17 imm => imm.toNat
  | .push18 imm => imm.toNat
  | .push19 imm => imm.toNat
  | .push20 imm => imm.toNat
  | .push21 imm => imm.toNat
  | .push22 imm => imm.toNat
  | .push23 imm => imm.toNat
  | .push24 imm => imm.toNat
  | .push25 imm => imm.toNat
  | .push26 imm => imm.toNat
  | .push27 imm => imm.toNat
  | .push28 imm => imm.toNat
  | .push29 imm => imm.toNat
  | .push30 imm => imm.toNat
  | .push31 imm => imm.toNat
  | .push32 imm => imm.toNat
  | .undefined _
  | .stop | .add | .mul | .sub | .div | .sdiv | .mod | .smod | .addmod | .mulmod | .exp | .signextend | .lt
  | .gt | .slt | .sgt | .eq | .iszero | .and | .or | .xor | .not | .byte | .shl | .shr | .sar | .pop | .push0
  | .dup1 | .dup2 | .dup3 | .dup4 | .dup5 | .dup6 | .dup7 | .dup8 | .dup9 | .dup10 | .dup11 | .dup12 | .dup13
  | .dup14 | .dup15 | .dup16 | .swap1 | .swap2 | .swap3 | .swap4 | .swap5 | .swap6 | .swap7 | .swap8 | .swap9
  | .swap10 | .swap11 | .swap12 | .swap13 | .swap14 | .swap15 | .swap16 => 0

/-- How many immediate bytes follow the opcode byte (R60 to R62). -/
def Instr.immBytes (i : Instr) : Nat := i.pushWidth.getD 0

/-- The bytes of an instruction, in address order (R60). -/
def encode (i : Instr) : List Byte := i.opcode :: beBytes i.immBytes i.immediate

/-! ### The table's words -/

/-- The `len` bytes, in address order, of a word whose bits are numbered as spec/opcode_table.json numbers them: the
first byte is bits 7..0, the second bits 15..8. Every bit from `nbits` up is 0. -/
def tableBytes (len nbits w : Nat) : List Byte :=
  (List.range len).map fun k => BitVec.ofNat 8 ((w % 2 ^ nbits) / 256 ^ k)

/-- The longest instruction: an opcode byte and MAX_IMM_BYTES (R5, R60). -/
abbrev maxInstrBytes : Nat := 1 + maxImmBytes

/-- The instruction the decoder reads from a word of the opcode table, laid out as the hardware stores it. -/
def decodeTableWord (nbits w : Nat) : Option Instr :=
  match decode (tableBytes maxInstrBytes nbits w) with
  | .ok (i, _) => some i
  | .error _ => none

end Sys2Proof
end

