-- ==== Sys2Proof/Config.lean ====
section
/-! DEFINITION. The named parameters of spec/00_scope.md rule R5, which "a model takes as arguments", and their
reference values. They are fixed for a whole invocation and no instruction reads or writes them (R33).
The spec leaves no value free: every choice its source leaves open is one of these parameters or is settled by a
numbered rule, so this file holds no opaque constant. -/

namespace Sys2Proof

/-- STACK_CAPACITY (R5): "a natural number or `unbounded`". -/
inductive Capacity where
  | unbounded
  | atMost (c : Nat)
deriving DecidableEq, Repr

/-- UNKNOWN_OPCODE_POLICY (R5, R86). -/
inductive UnknownOpcodePolicy where
  | skip
  | fault
deriving DecidableEq, Repr

/-- SIGNEXTEND_MODE (R5, R110). -/
inductive SignExtendMode where
  | narrow
  | general
deriving DecidableEq, Repr

/-- TRUNCATED_PUSH_POLICY (R5, R46). -/
inductive TruncatedPushPolicy where
  | zeroPad
  | fault
deriving DecidableEq, Repr

/-- PC_BITS and CODE_LEN_MAX (R5, R26) of an implementation, with the inequality the spec asks of them, which keeps
every pc the loop can reach representable. -/
structure Limits where
  pcBits     : Nat
  codeLenMax : Nat
  pcFits     : codeLenMax + 33 ≤ 2 ^ pcBits
deriving DecidableEq, Repr

/-- The parameters of R5. -/
structure Config where
  stackCapacity       : Capacity
  unknownOpcodePolicy : UnknownOpcodePolicy
  signExtendMode      : SignExtendMode
  truncatedPushPolicy : TruncatedPushPolicy
  /-- `none` is the spec's own model, whose "pc is an unbounded natural number" (R5) and whose code may have any
  length; `some` is an implementation with a finite pc. DESIGN CHOICE: notes/assumptions/3.md. -/
  limits              : Option Limits
deriving DecidableEq, Repr

/-- The reference values of R5: STACK_CAPACITY `unbounded`, UNKNOWN_OPCODE_POLICY `Skip`, SIGNEXTEND_MODE `Narrow`,
TRUNCATED_PUSH_POLICY `ZeroPad`. R5 gives PC_BITS and CODE_LEN_MAX no reference value: notes/assumptions/3.md. -/
def Config.reference : Config where
  stackCapacity       := .unbounded
  unknownOpcodePolicy := .skip
  signExtendMode      := .narrow
  truncatedPushPolicy := .zeroPad
  limits              := none

end Sys2Proof
end

