-- ==== Sys2Proof/Machine/State.lean ====
section
/-! DEFINITION. The state of the machine as plain data: the tuple (CODE, S, pc, rs, cause) of spec/10_state.md rule R20, and
beside it the parameters of rule R5, which are fixed for the invocation; the reasons a step can stop; the reset state. -/

namespace Sys2Proof.Machine

/-- rs, the run state (R29). -/
inductive RunState where
  | fetching
  | halted
  | failed
deriving DecidableEq, Repr

/-- The fault causes (R31, R300). -/
inductive Cause where
  | none
  | stackUnderflow
  | unknownOpcode
  | truncatedImmediate
  | stackOverflow
deriving DecidableEq, Repr

/-- CODE, the code buffer: the one address space of the machine (R21, R40). Offsets 0 to `len - 1` exist; `cells` lists
the bytes that are not 0x00 (see Memory.wf in Machine/Ops.lean), so that equal buffers are equal data. -/
structure Memory where
  /-- L, the length of the code buffer in bytes (R12, R21). -/
  len   : Nat
  cells : List Host.Cell
deriving DecidableEq, Repr

/-- The code buffer of length 0. -/
def Memory.empty : Memory := { len := 0, cells := [] }

/-- The architectural state (R20). Nothing else is state (R32, R33): no flags, no general registers (R25), no control
registers, no interrupt, privilege or timer state (R308, R310, R312). -/
structure State where
  /-- CODE (R21): "nothing inside the core" writes it. -/
  code  : Memory
  /-- S (R22), top first: the head of the list is `S[1]` (R11). -/
  stack : List Word
  /-- pc (R26): the byte offset of the next opcode to fetch, an unbounded natural number. -/
  pc    : Nat
  /-- rs (R29). -/
  rs    : RunState
  /-- cause (R31). -/
  cause : Cause
  /-- The parameters of R5, the MODEL's own field: they are configuration and no step changes them. They stand here
  because the type of `exec` is fixed and a claim must be provable for every parameter value (R5).
  DESIGN CHOICE: notes/assumptions/2.md. -/
  cfg   : Config
deriving DecidableEq, Repr

/-- Why the machine stops. The faults of the SPEC are not here: they end the run in FAILED, which is a next state
(R306). -/
inductive Fault where
  /-- Raised by `step` when rs is HALTED: "Only FETCHING has a next step" (R29). Safe: the spec gives no next state. -/
  | runHalted
  /-- Raised by `step` when rs is FAILED, with the recorded cause (R29, R307). Safe: the spec gives no next state. -/
  | runFailed (cause : Cause)
deriving DecidableEq, Repr

/-- Why the model gives no answer. -/
inductive Refusal where
  /-- Raised by an arm of `exec` whose instruction has no meaning yet; none is left. Safe: no state is claimed. -/
  | notModelled (mnemonic : String)
  /-- Raised by `step` when CODE is longer than CODE_LEN_MAX of a finite implementation: "Code longer than CODE_LEN_MAX:
  `refuse`" (spec/93_implementation_defined.md I10). Safe: no state is claimed. -/
  | codeTooLong
deriving DecidableEq, Repr

/-- What a step of this machine answers. -/
abbrev StepOutcome := Host.Outcome State Fault Refusal

/-- The state right after reset (R330) with no code supplied (R331: the caller supplies it) and the parameters at their
reference values. `State.start` in Machine/Interface.lean is the reset of an invocation with code and parameters. -/
def State.reset : State where
  code  := Memory.empty
  stack := []
  pc    := 0
  rs    := .fetching
  cause := .none
  cfg   := Config.reference

end Sys2Proof.Machine
end

