-- ==== Sys2Proof/Machine/Ops.lean ====
section
/-! DEFINITION. The named operations over the state: reading and laying out the code buffer, the pc, the stack, fault
entry and halting, and the dispatch that every instruction but STOP and the undefined bytes goes through. -/

namespace Sys2Proof.Machine

/-! ### The code buffer (spec/20_memory.md) -/

/-- What an offset with no entry in the list reads as. A representation only: every offset below `len` has its byte. -/
def Memory.unlisted : Byte := 0

/-- The offsets of a cell list rise strictly from `lo` on, stay below `len`, and no entry holds the unlisted byte. -/
def cellsWf (len : Nat) : Nat → List Host.Cell → Bool
  | _, [] => true
  | lo, (a, b) :: cs => lo ≤ a && a < len && b != Memory.unlisted && cellsWf len (a + 1) cs

/-- The canonical form of a code buffer. -/
def Memory.wf (m : Memory) : Bool := cellsWf m.len 0 m.cells

/-- The byte a cell list gives an offset. -/
def lookupCell (a : Nat) : List Host.Cell → Byte
  | [] => Memory.unlisted
  | (k, b) :: cs => if k = a then b else lookupCell a cs

/-- `CodeByte(a)` (R12, R41): the byte at offset `a`, and none at or beyond L, where no byte exists (R40). -/
def Memory.read (m : Memory) (a : Nat) : Option Byte :=
  if a < m.len then some (lookupCell a m.cells) else none

/-- The bytes that exist at the offsets from `a` on, at most `n` of them. -/
def Memory.window (m : Memory) : Nat → Nat → List Byte
  | _, 0 => []
  | a, n + 1 =>
    match m.read a with
    | none => []
    | some b => b :: m.window (a + 1) n

/-- Set the byte of one offset in a cell list, keeping the canonical form. -/
def insertCell (a : Nat) (b : Byte) : List Host.Cell → List Host.Cell
  | [] => if b = Memory.unlisted then [] else [(a, b)]
  | (k, c) :: cs =>
    if k < a then (k, c) :: insertCell a b cs
    else if k = a then (if b = Memory.unlisted then cs else (a, b) :: cs)
    else if b = Memory.unlisted then (k, c) :: cs
    else (a, b) :: (k, c) :: cs

/-- Set the byte at an offset, growing the buffer to hold it. The CALLER's operation, used to lay out code before a run:
no instruction writes CODE (R21, R52). -/
def Memory.write (m : Memory) (a : Nat) (b : Byte) : Memory where
  len   := max m.len (a + 1)
  cells := insertCell a b m.cells

/-- Lay out a byte sequence from an offset on. -/
def Memory.place : Memory → Nat → List Byte → Memory
  | m, _, [] => m
  | m, a, b :: bs => (m.write a b).place (a + 1) bs

/-- The code buffer that holds exactly a byte sequence, from offset 0 (R21). -/
def Memory.ofBytes (bs : List Byte) : Memory := Memory.empty.place 0 bs

/-! ### The program counter -/

/-- "advance pc by 1 + immediate width" (R80). -/
def State.advance (n : Nat) (s : State) : State := { s with pc := s.pc + 1 + n }

/-! ### Fault entry and halting -/

/-- Fault entry, `raise Fault(c)` (R306): "rs <- FAILED; cause <- c. Nothing else changes". There is no handler and no
return from it (R307): FAILED is terminal, and only a new invocation (State.start) runs again. -/
def State.raise (c : Cause) (s : State) : State := { s with rs := .failed, cause := c }

/-- `halt()` (R12): enter the HALTED run state. -/
def State.halt (s : State) : State := { s with rs := .halted }

/-- What a step answers when the run has ended: HALTED and FAILED have no next step (R29, R307). -/
def State.endOfRun (s : State) : StepOutcome :=
  match s.rs with
  | .failed => .fault (.runFailed s.cause)
  | _ => .fault .runHalted

/-- The numeric encoding of rs in an implementation (R29); 3 is never held. -/
def RunState.encoding : RunState → BitVec 2
  | .fetching => 0
  | .halted => 1
  | .failed => 2

/-- The numeric code of a fault cause (R300). -/
def Cause.encoding : Cause → Nat
  | .none => 0
  | .stackUnderflow => 1
  | .unknownOpcode => 2
  | .truncatedImmediate => 3
  | .stackOverflow => 4

/-! ### Stack depth and dispatch -/

/-- Replace S by what an instruction computes from it, "one indivisible change of S" (R88). -/
def State.setStack (S : List Word) (s : State) : State := { s with stack := S }

/-- A stack of depth `d` fits STACK_CAPACITY (R20, R87). -/
def fits : Capacity → Nat → Bool
  | .unbounded, _ => true
  | .atMost c, d => d ≤ c

/-- One row of the arity table (R84): the depth an instruction requires, the elements it removes and those it adds. -/
structure Arity where
  need   : Nat
  pops   : Nat
  pushes : Nat
deriving DecidableEq, Repr

/-- The depth after an instruction that completes from depth `d` (R84). -/
def Arity.depthAfter (ar : Arity) (d : Nat) : Nat := d - ar.pops + ar.pushes

/-- From the advance of the pc to the end of the step (R80): advance by one opcode byte and `n` immediate bytes, test
for underflow (R85) and then for overflow (R87), each with S unchanged, and only then compute (R88). -/
def State.dispatch (n : Nat) (ar : Arity) (compute : List Word → List Word) (s : State) : StepOutcome :=
  if s.stack.length < ar.need then
    .next ((s.advance n).raise .stackUnderflow)
  else if fits s.cfg.stackCapacity (ar.depthAfter s.stack.length) then
    .next ((s.advance n).setStack (compute s.stack))
  else
    .next ((s.advance n).raise .stackOverflow)

/-- Fewer than `n` immediate bytes follow the opcode byte at pc (R46, R80: `N > 0 and pc + N >= L`). -/
abbrev State.truncated (n : Nat) (s : State) : Prop := 0 < n ∧ s.code.len ≤ s.pc + n

/-! ### Fetch -/

/-- The bytes an instruction at pc can take: those of CODE from pc on, at most 33 of them (R5, R60). Empty exactly when
`pc >= L`. -/
def State.fetchBytes (s : State) : List Byte := s.code.window s.pc maxInstrBytes

/-- The code buffer is one the parameters admit: L is at most CODE_LEN_MAX (R21, I10). -/
def State.codeAdmitted (s : State) : Bool :=
  match s.cfg.limits with
  | none => true
  | some l => s.code.len ≤ l.codeLenMax

end Sys2Proof.Machine
end

