-- ==== Sys2Proof/Machine/Operands.lean ====
section
/-! DEFINITION. The operand forms: how an instruction takes its operands from the stack and leaves its result there, in
the pop order of spec/00_scope.md rule R13 (`a` the top, `b` the second, `c` the third); the arity table of
spec/40_execution.md rule R84; the signed view and the narrowing of rules R6 and R8. -/

namespace Sys2Proof.Machine

/-! ### Words and integers -/

/-- `wrap(v)` (R6): the Word congruent to an integer modulo 2^256. Also `from_signed` (R8). -/
def wrap (v : Int) : Word := BitVec.ofInt wordBits v

/-- `to_signed(w)` (R8): the 256-bit two's complement view, `w` if bit 255 is 0, else `w - 2^256`. -/
def toSigned (w : Word) : Int :=
  if w.getLsbD 255 then (w.toNat : Int) - 2 ^ 256 else w.toNat

/-- `tdiv(A, B)` (R9): the quotient rounded toward zero. -/
def tdiv (A B : Int) : Int := Int.tdiv A B

/-- `trem(A, B) = A - B*tdiv(A, B)` (R9): the remainder with the sign of A. -/
def trem (A B : Int) : Int := A - B * tdiv A B

/-! ### Arities -/

/-- STOP and the undefined bytes take nothing from the stack and add nothing (R84, R86). -/
def Arity.none : Arity := ⟨0, 0, 0⟩
/-- The unary family: "pop one, push one" (R84). -/
def Arity.unary : Arity := ⟨1, 1, 1⟩
/-- The binary family, and SIGNEXTEND (R84). -/
def Arity.binary : Arity := ⟨2, 2, 1⟩
/-- The ternary family (R84). -/
def Arity.ternary : Arity := ⟨3, 3, 1⟩
/-- POP (R84). -/
def Arity.pop : Arity := ⟨1, 1, 0⟩
/-- The push family (R84). -/
def Arity.push : Arity := ⟨0, 0, 1⟩
/-- DUPn: it reads the element at depth n and removes none (R84, R215). -/
def Arity.duplicate (n : Nat) : Arity := ⟨n, 0, 1⟩
/-- SWAPn: it reads and writes depths 1 and n + 1 (R84, R232). -/
def Arity.swap (n : Nat) : Arity := ⟨n + 1, 0, 0⟩

/-- The arity table (R84), by instruction. STOP's and an undefined byte's rows are all zero. -/
def arityOf : Instr → Arity
  | .undefined _ | .stop => .none
  | .add | .mul | .sub | .div | .sdiv | .mod | .smod | .exp | .signextend | .lt | .gt | .slt | .sgt | .eq | .and
  | .or | .xor | .byte | .shl | .shr | .sar => .binary
  | .addmod | .mulmod => .ternary
  | .iszero | .not => .unary
  | .pop => .pop
  | .push0 | .push1 _ | .push2 _ | .push3 _ | .push4 _ | .push5 _ | .push6 _ | .push7 _ | .push8 _ | .push9 _
  | .push10 _ | .push11 _ | .push12 _ | .push13 _ | .push14 _ | .push15 _ | .push16 _ | .push17 _ | .push18 _
  | .push19 _ | .push20 _ | .push21 _ | .push22 _ | .push23 _ | .push24 _ | .push25 _ | .push26 _ | .push27 _
  | .push28 _ | .push29 _ | .push30 _ | .push31 _ | .push32 _ => .push
  | .dup1 => .duplicate 1
  | .dup2 => .duplicate 2
  | .dup3 => .duplicate 3
  | .dup4 => .duplicate 4
  | .dup5 => .duplicate 5
  | .dup6 => .duplicate 6
  | .dup7 => .duplicate 7
  | .dup8 => .duplicate 8
  | .dup9 => .duplicate 9
  | .dup10 => .duplicate 10
  | .dup11 => .duplicate 11
  | .dup12 => .duplicate 12
  | .dup13 => .duplicate 13
  | .dup14 => .duplicate 14
  | .dup15 => .duplicate 15
  | .dup16 => .duplicate 16
  | .swap1 => .swap 1
  | .swap2 => .swap 2
  | .swap3 => .swap 3
  | .swap4 => .swap 4
  | .swap5 => .swap 5
  | .swap6 => .swap 6
  | .swap7 => .swap 7
  | .swap8 => .swap 8
  | .swap9 => .swap 9
  | .swap10 => .swap 10
  | .swap11 => .swap 11
  | .swap12 => .swap 12
  | .swap13 => .swap 13
  | .swap14 => .swap 14
  | .swap15 => .swap 15
  | .swap16 => .swap 16

/-! ### Stack transformers

Each is a total function on stacks. Its last arm is a stack too shallow for the instruction, which dispatch never gives
it, since the depth test comes first (R83). -/

/-- Pop a, push f(a) (R84 unary). -/
def unaryStack (f : Word → Word) : List Word → List Word
  | a :: S => f a :: S
  | S => S

/-- Pop a, pop b, push f(a, b) (R13, R84 binary). -/
def binaryStack (f : Word → Word → Word) : List Word → List Word
  | a :: b :: S => f a b :: S
  | S => S

/-- Pop a, pop b, pop c, push f(a, b, c) (R13, R84 ternary). -/
def ternaryStack (f : Word → Word → Word → Word) : List Word → List Word
  | a :: b :: c :: S => f a b c :: S
  | S => S

/-- Remove the top (R180). -/
def popStack : List Word → List Word
  | _ :: S => S
  | [] => []

/-- Push a copy of `S[n]` (R215); `S[1]` is the top (R11). -/
def dupStack (n : Nat) (S : List Word) : List Word :=
  match S[n - 1]? with
  | some v => v :: S
  | none => S

/-- Exchange `S[1]` and `S[n+1]` (R232). -/
def swapStack (n : Nat) (S : List Word) : List Word :=
  match S[0]?, S[n]? with
  | some t, some v => (S.set 0 v).set n t
  | _, _ => S

/-! ### Operand forms -/

/-- An instruction of the unary family (R83, R84). -/
def unary (f : Word → Word) (s : State) : StepOutcome := s.dispatch 0 .unary (unaryStack f)

/-- An instruction of the binary family (R83, R84). -/
def binary (f : Word → Word → Word) (s : State) : StepOutcome := s.dispatch 0 .binary (binaryStack f)

/-- An instruction of the ternary family (R83, R84). -/
def ternary (f : Word → Word → Word → Word) (s : State) : StepOutcome := s.dispatch 0 .ternary (ternaryStack f)

end Sys2Proof.Machine
end

