-- ==== Sys2Proof/Machine/Arith.lean ====
section
/-! DEFINITION. The arithmetic instructions (spec/41_arithmetic.md). Each primitive takes its operands in pop order (R13),
computes on exact integers and narrows at the end (R113); no result sets a flag or raises a fault (R305). -/

namespace Sys2Proof.Machine

/-! ### The primitives -/

/-- `(a + b) mod 2^256` (R100). -/
def addWord (a b : Word) : Word := wrap (a.toNat + b.toNat)

/-- `(a * b) mod 2^256` (R101). -/
def mulWord (a b : Word) : Word := wrap (a.toNat * b.toNat)

/-- `(a - b) mod 2^256`, on integers and then wrapped (R102). -/
def subWord (a b : Word) : Word := wrap ((a.toNat : Int) - b.toNat)

/-- `0 if b == 0 else a div b`, unsigned (R103). -/
def divWord (a b : Word) : Word :=
  if b = 0 then 0 else wrap ((a.toNat / b.toNat : Nat) : Int)

/-- Signed quotient, rounded toward zero; 0 for divisor 0; the one quotient out of range wraps (R104). -/
def sdivWord (a b : Word) : Word :=
  if b = 0 then 0 else wrap (tdiv (toSigned a) (toSigned b))

/-- `0 if b == 0 else a mod b`, unsigned (R105). -/
def modWord (a b : Word) : Word :=
  if b = 0 then 0 else wrap ((a.toNat % b.toNat : Nat) : Int)

/-- Signed remainder, with the sign of the dividend; 0 for divisor 0 (R106). -/
def smodWord (a b : Word) : Word :=
  if b = 0 then 0 else wrap (trem (toSigned a) (toSigned b))

/-- `0 if m == 0 else (a + b) mod m`, the sum exact (R107). -/
def addmodWord (a b m : Word) : Word :=
  if m = 0 then 0 else wrap (((a.toNat + b.toNat) % m.toNat : Nat) : Int)

/-- `0 if m == 0 else (a * b) mod m`, the product exact (R108). -/
def mulmodWord (a b m : Word) : Word :=
  if m = 0 then 0 else wrap (((a.toNat * b.toNat) % m.toNat : Nat) : Int)

/-- `(b ** e) mod 2^256` for an exponent below `2 ^ fuel`, by squaring, so that "the full unreduced power" is never
built (R109). -/
def powWord (b : Word) : Nat → Nat → Word
  | 0, _ => 1
  | fuel + 1, e =>
    if e % 2 = 1 then mulWord b (powWord (mulWord b b) fuel (e / 2)) else powWord (mulWord b b) fuel (e / 2)

/-- `(a ** b) mod 2^256`, with `0 ** 0 = 1` (R109). -/
def expWord (a b : Word) : Word := powWord a wordBits b.toNat

/-- `sign_extend_narrow(x)` (R111): bits 8 to 255 set if bit 7 is; else x unchanged, its upper bits included. -/
def signExtendNarrow (x : Word) : Word :=
  if x.getLsbD 7 then x ||| wrap (2 ^ 256 - 2 ^ 8) else x

/-- `sign_extend_general(k, x)` (R112): bits above `t = 8k + 7` become copies of bit t; x unchanged for k >= 31. -/
def signExtendGeneral (k x : Word) : Word :=
  if 31 ≤ k.toNat then x
  else if x.getLsbD (8 * k.toNat + 7) then x ||| wrap (2 ^ 256 - 2 ^ (8 * k.toNat + 8))
  else x &&& wrap (2 ^ (8 * k.toNat + 8) - 1)

/-- SIGNEXTEND's function of the selector k (the top) and the value x (R110). -/
def signExtend (mode : SignExtendMode) (k x : Word) : Word :=
  match mode with
  | .narrow => signExtendNarrow x
  | .general => signExtendGeneral k x

/-! ### The instructions -/

/-- ADD (R100). -/
def execAdd (s : State) : StepOutcome := binary addWord s

/-- MUL (R101). -/
def execMul (s : State) : StepOutcome := binary mulWord s

/-- SUB (R102): the top is the minuend. -/
def execSub (s : State) : StepOutcome := binary subWord s

/-- DIV (R103): the top is the dividend. -/
def execDiv (s : State) : StepOutcome := binary divWord s

/-- SDIV (R104). -/
def execSdiv (s : State) : StepOutcome := binary sdivWord s

/-- MOD (R105). -/
def execMod (s : State) : StepOutcome := binary modWord s

/-- SMOD (R106). -/
def execSmod (s : State) : StepOutcome := binary smodWord s

/-- ADDMOD (R107): the third element is the modulus. -/
def execAddMod (s : State) : StepOutcome := ternary addmodWord s

/-- MULMOD (R108). -/
def execMulMod (s : State) : StepOutcome := ternary mulmodWord s

/-- EXP (R109): the top is the base. -/
def execExp (s : State) : StepOutcome := binary expWord s

/-- SIGNEXTEND (R110): the top is the byte-width selector. -/
def execSignExtend (s : State) : StepOutcome := binary (signExtend s.cfg.signExtendMode) s

end Sys2Proof.Machine
end

