-- ==== Sys2Proof/Machine/Bitwise.lean ====
section
/-! DEFINITION. The bitwise instructions, byte extraction and the shifts (spec/42_compare_bitwise.md rules R146 to R153), all
as fixed-width bit operations. -/

namespace Sys2Proof.Machine

/-- `a & b`, bit by bit (R146). -/
def andWord (a b : Word) : Word := a &&& b

/-- `a | b` (R147). -/
def orWord (a b : Word) : Word := a ||| b

/-- `a ^ b` (R148). -/
def xorWord (a b : Word) : Word := a ^^^ b

/-- `~a` (R149). -/
def notWord (a : Word) : Word := ~~~a

/-- The byte of `w` at an index counted from the most significant byte as 0; 0 beyond 31 (R7, R150). -/
def byteWord (i w : Word) : Word :=
  if 31 < i.toNat then 0 else (w >>> (8 * (31 - i.toNat))) &&& 0xFF

/-- `0 if s >= 256 else (v << s) mod 2^256` (R151). -/
def shlWord (s v : Word) : Word :=
  if 256 ≤ s.toNat then 0 else wrap (v.toNat * 2 ^ s.toNat)

/-- `0 if s >= 256 else v >> s` (R152). -/
def shrWord (s v : Word) : Word :=
  if 256 ≤ s.toNat then 0 else wrap ((v.toNat / 2 ^ s.toNat : Nat) : Int)

/-- The signed value shifted right, rounding toward minus infinity; from 256 on, 0 or all ones by its sign (R153). -/
def sarWord (s v : Word) : Word :=
  if 256 ≤ s.toNat then (if 0 ≤ toSigned v then 0 else wrap (2 ^ 256 - 1))
  else wrap (Int.fdiv (toSigned v) (2 ^ s.toNat))

/-- AND (R146). -/
def execAnd (s : State) : StepOutcome := binary andWord s

/-- OR (R147). -/
def execOr (s : State) : StepOutcome := binary orWord s

/-- XOR (R148). -/
def execXor (s : State) : StepOutcome := binary xorWord s

/-- NOT (R149). -/
def execNot (s : State) : StepOutcome := unary notWord s

/-- BYTE (R150): the top is the index. -/
def execByte (s : State) : StepOutcome := binary byteWord s

/-- SHL (R151): the top is the shift amount. -/
def execShl (s : State) : StepOutcome := binary shlWord s

/-- SHR (R152). -/
def execShr (s : State) : StepOutcome := binary shrWord s

/-- SAR (R153). -/
def execSar (s : State) : StepOutcome := binary sarWord s

end Sys2Proof.Machine
end

