-- ==== Sys2Proof/Machine/Flags.lean ====
section
/-! DEFINITION. "The core has no status flags and no condition codes" (spec/10_state.md rule R32): what other machines put in
flags, this one pushes as a Word. This file holds that Word. Carry, overflow and division by zero set nothing. -/

namespace Sys2Proof.Machine

/-- `bool2w(p)` (R9): "Comparison/equality results are exactly 0 or 1" (R32). -/
def bool2w (p : Bool) : Word := if p then 1 else 0

end Sys2Proof.Machine
end

