-- ==== Sys2Proof/Machine/Compare.lean ====
section
/-! DEFINITION. The comparisons (spec/42_compare_bitwise.md rules R140 to R145): "a OP b" with a the top. -/

namespace Sys2Proof.Machine

/-- `bool2w(a < b)`, unsigned (R140). -/
def ltWord (a b : Word) : Word := bool2w (a.toNat < b.toNat)

/-- `bool2w(a > b)`, unsigned (R141). -/
def gtWord (a b : Word) : Word := bool2w (a.toNat > b.toNat)

/-- `bool2w(to_signed(a) < to_signed(b))` (R142). -/
def sltWord (a b : Word) : Word := bool2w (toSigned a < toSigned b)

/-- `bool2w(to_signed(a) > to_signed(b))` (R143). -/
def sgtWord (a b : Word) : Word := bool2w (toSigned a > toSigned b)

/-- `bool2w(a == b)` (R144). -/
def eqWord (a b : Word) : Word := bool2w (a == b)

/-- `bool2w(a == 0)` (R145). -/
def isZeroWord (a : Word) : Word := bool2w (a == 0)

/-- LT (R140). -/
def execLt (s : State) : StepOutcome := binary ltWord s

/-- GT (R141). -/
def execGt (s : State) : StepOutcome := binary gtWord s

/-- SLT (R142). -/
def execSlt (s : State) : StepOutcome := binary sltWord s

/-- SGT (R143). -/
def execSgt (s : State) : StepOutcome := binary sgtWord s

/-- EQ (R144). -/
def execEq (s : State) : StepOutcome := binary eqWord s

/-- ISZERO (R145). -/
def execIsZero (s : State) : StepOutcome := unary isZeroWord s

end Sys2Proof.Machine
end

