-- ==== Sys2Proof/Machine/Control.lean ====
section
/-! DEFINITION. STOP (spec/40_execution.md rule R82) and the undefined bytes (rule R86): the two that never reach dispatch. -/

namespace Sys2Proof.Machine

/-- STOP (R82): `halt()`; "pc is not advanced past it"; S unchanged. -/
def execStop (s : State) : StepOutcome := .next s.halt

/-- An undefined byte (R86): under Skip a one-byte no-op; under Fault pc moves past it and UNKNOWN_OPCODE is raised
(R302). It has no stack requirement and reads no immediate, whatever byte it is. -/
def execUndefined (_op : Byte) (s : State) : StepOutcome :=
  match s.cfg.unknownOpcodePolicy with
  | .skip => .next (s.advance 0)
  | .fault => .next ((s.advance 0).raise .unknownOpcode)

end Sys2Proof.Machine
end

