-- ==== Sys2Proof/Machine/StackMoves.lean ====
section
/-! DEFINITION. The instructions that move Words rather than compute them (spec/43_stack.md): POP, PUSH0 to PUSH32, DUP1 to
DUP16, SWAP1 to SWAP16. Each ranged family has one shared operation written from its family rule, which "governs"
where a per-opcode rule could be read to differ; each opcode has a definition of its own over it. -/

namespace Sys2Proof.Machine

/-! ### The family operations -/

/-- The PUSHn family (R181). A truncated immediate under TRUNCATED_PUSH_POLICY = Fault is raised while decoding, before
the pc advances and before any stack test (R46, R80, R303); otherwise the value is pushed, zero-extended (R63). -/
def pushImmediate (n imm : Nat) (s : State) : StepOutcome :=
  if s.truncated n ∧ s.cfg.truncatedPushPolicy = .fault then
    .next (s.raise .truncatedImmediate)
  else
    s.dispatch n .push (fun S => BitVec.ofNat wordBits imm :: S)

/-- The DUPn family (R215): `v <- S[n]; push(v)`. -/
def duplicate (n : Nat) (s : State) : StepOutcome :=
  s.dispatch 0 (.duplicate n) (dupStack n)

/-- The SWAPn family (R232): `t <- S[1]; S[1] <- S[n+1]; S[n+1] <- t`. -/
def exchange (n : Nat) (s : State) : StepOutcome :=
  s.dispatch 0 (.swap n) (swapStack n)

/-! ### POP -/

/-- POP (R180): removes and discards the top element. -/
def execPop (s : State) : StepOutcome :=
  s.dispatch 0 .pop popStack

/-! ### PUSH0 to PUSH32 -/

/-- PUSH0 (R182): the constant 0, no immediate byte. -/
def execPush0 (s : State) : StepOutcome := pushImmediate 0 0 s

/-- PUSH1 (R183). -/
def execPush1 (imm : BitVec 8) (s : State) : StepOutcome := pushImmediate 1 imm.toNat s

/-- PUSH2 (R184). -/
def execPush2 (imm : BitVec 16) (s : State) : StepOutcome := pushImmediate 2 imm.toNat s

/-- PUSH3 (R185). -/
def execPush3 (imm : BitVec 24) (s : State) : StepOutcome := pushImmediate 3 imm.toNat s

/-- PUSH4 (R186). -/
def execPush4 (imm : BitVec 32) (s : State) : StepOutcome := pushImmediate 4 imm.toNat s

/-- PUSH5 (R187). -/
def execPush5 (imm : BitVec 40) (s : State) : StepOutcome := pushImmediate 5 imm.toNat s

/-- PUSH6 (R188). -/
def execPush6 (imm : BitVec 48) (s : State) : StepOutcome := pushImmediate 6 imm.toNat s

/-- PUSH7 (R189). -/
def execPush7 (imm : BitVec 56) (s : State) : StepOutcome := pushImmediate 7 imm.toNat s

/-- PUSH8 (R190). -/
def execPush8 (imm : BitVec 64) (s : State) : StepOutcome := pushImmediate 8 imm.toNat s

/-- PUSH9 (R191). -/
def execPush9 (imm : BitVec 72) (s : State) : StepOutcome := pushImmediate 9 imm.toNat s

/-- PUSH10 (R192). -/
def execPush10 (imm : BitVec 80) (s : State) : StepOutcome := pushImmediate 10 imm.toNat s

/-- PUSH11 (R193). -/
def execPush11 (imm : BitVec 88) (s : State) : StepOutcome := pushImmediate 11 imm.toNat s

/-- PUSH12 (R194). -/
def execPush12 (imm : BitVec 96) (s : State) : StepOutcome := pushImmediate 12 imm.toNat s

/-- PUSH13 (R195). -/
def execPush13 (imm : BitVec 104) (s : State) : StepOutcome := pushImmediate 13 imm.toNat s

/-- PUSH14 (R196). -/
def execPush14 (imm : BitVec 112) (s : State) : StepOutcome := pushImmediate 14 imm.toNat s

/-- PUSH15 (R197). -/
def execPush15 (imm : BitVec 120) (s : State) : StepOutcome := pushImmediate 15 imm.toNat s

/-- PUSH16 (R198). -/
def execPush16 (imm : BitVec 128) (s : State) : StepOutcome := pushImmediate 16 imm.toNat s

/-- PUSH17 (R199). -/
def execPush17 (imm : BitVec 136) (s : State) : StepOutcome := pushImmediate 17 imm.toNat s

/-- PUSH18 (R200). -/
def execPush18 (imm : BitVec 144) (s : State) : StepOutcome := pushImmediate 18 imm.toNat s

/-- PUSH19 (R201). -/
def execPush19 (imm : BitVec 152) (s : State) : StepOutcome := pushImmediate 19 imm.toNat s

/-- PUSH20 (R202). -/
def execPush20 (imm : BitVec 160) (s : State) : StepOutcome := pushImmediate 20 imm.toNat s

/-- PUSH21 (R203). -/
def execPush21 (imm : BitVec 168) (s : State) : StepOutcome := pushImmediate 21 imm.toNat s

/-- PUSH22 (R204). -/
def execPush22 (imm : BitVec 176) (s : State) : StepOutcome := pushImmediate 22 imm.toNat s

/-- PUSH23 (R205). -/
def execPush23 (imm : BitVec 184) (s : State) : StepOutcome := pushImmediate 23 imm.toNat s

/-- PUSH24 (R206). -/
def execPush24 (imm : BitVec 192) (s : State) : StepOutcome := pushImmediate 24 imm.toNat s

/-- PUSH25 (R207). -/
def execPush25 (imm : BitVec 200) (s : State) : StepOutcome := pushImmediate 25 imm.toNat s

/-- PUSH26 (R208). -/
def execPush26 (imm : BitVec 208) (s : State) : StepOutcome := pushImmediate 26 imm.toNat s

/-- PUSH27 (R209). -/
def execPush27 (imm : BitVec 216) (s : State) : StepOutcome := pushImmediate 27 imm.toNat s

/-- PUSH28 (R210). -/
def execPush28 (imm : BitVec 224) (s : State) : StepOutcome := pushImmediate 28 imm.toNat s

/-- PUSH29 (R211). -/
def execPush29 (imm : BitVec 232) (s : State) : StepOutcome := pushImmediate 29 imm.toNat s

/-- PUSH30 (R212). -/
def execPush30 (imm : BitVec 240) (s : State) : StepOutcome := pushImmediate 30 imm.toNat s

/-- PUSH31 (R213). -/
def execPush31 (imm : BitVec 248) (s : State) : StepOutcome := pushImmediate 31 imm.toNat s

/-- PUSH32 (R214). -/
def execPush32 (imm : BitVec 256) (s : State) : StepOutcome := pushImmediate 32 imm.toNat s

/-! ### DUP1 to DUP16 -/

/-- DUP1 (R216). -/
def execDup1 (s : State) : StepOutcome := duplicate 1 s

/-- DUP2 (R217). -/
def execDup2 (s : State) : StepOutcome := duplicate 2 s

/-- DUP3 (R218). -/
def execDup3 (s : State) : StepOutcome := duplicate 3 s

/-- DUP4 (R219). -/
def execDup4 (s : State) : StepOutcome := duplicate 4 s

/-- DUP5 (R220). -/
def execDup5 (s : State) : StepOutcome := duplicate 5 s

/-- DUP6 (R221). -/
def execDup6 (s : State) : StepOutcome := duplicate 6 s

/-- DUP7 (R222). -/
def execDup7 (s : State) : StepOutcome := duplicate 7 s

/-- DUP8 (R223). -/
def execDup8 (s : State) : StepOutcome := duplicate 8 s

/-- DUP9 (R224). -/
def execDup9 (s : State) : StepOutcome := duplicate 9 s

/-- DUP10 (R225). -/
def execDup10 (s : State) : StepOutcome := duplicate 10 s

/-- DUP11 (R226). -/
def execDup11 (s : State) : StepOutcome := duplicate 11 s

/-- DUP12 (R227). -/
def execDup12 (s : State) : StepOutcome := duplicate 12 s

/-- DUP13 (R228). -/
def execDup13 (s : State) : StepOutcome := duplicate 13 s

/-- DUP14 (R229). -/
def execDup14 (s : State) : StepOutcome := duplicate 14 s

/-- DUP15 (R230). -/
def execDup15 (s : State) : StepOutcome := duplicate 15 s

/-- DUP16 (R231). -/
def execDup16 (s : State) : StepOutcome := duplicate 16 s

/-! ### SWAP1 to SWAP16 -/

/-- SWAP1 (R233). -/
def execSwap1 (s : State) : StepOutcome := exchange 1 s

/-- SWAP2 (R234). -/
def execSwap2 (s : State) : StepOutcome := exchange 2 s

/-- SWAP3 (R235). -/
def execSwap3 (s : State) : StepOutcome := exchange 3 s

/-- SWAP4 (R236). -/
def execSwap4 (s : State) : StepOutcome := exchange 4 s

/-- SWAP5 (R237). -/
def execSwap5 (s : State) : StepOutcome := exchange 5 s

/-- SWAP6 (R238). -/
def execSwap6 (s : State) : StepOutcome := exchange 6 s

/-- SWAP7 (R239). -/
def execSwap7 (s : State) : StepOutcome := exchange 7 s

/-- SWAP8 (R240). -/
def execSwap8 (s : State) : StepOutcome := exchange 8 s

/-- SWAP9 (R241). -/
def execSwap9 (s : State) : StepOutcome := exchange 9 s

/-- SWAP10 (R242). -/
def execSwap10 (s : State) : StepOutcome := exchange 10 s

/-- SWAP11 (R243). -/
def execSwap11 (s : State) : StepOutcome := exchange 11 s

/-- SWAP12 (R244). -/
def execSwap12 (s : State) : StepOutcome := exchange 12 s

/-- SWAP13 (R245). -/
def execSwap13 (s : State) : StepOutcome := exchange 13 s

/-- SWAP14 (R246). -/
def execSwap14 (s : State) : StepOutcome := exchange 14 s

/-- SWAP15 (R247). -/
def execSwap15 (s : State) : StepOutcome := exchange 15 s

/-- SWAP16 (R248). -/
def execSwap16 (s : State) : StepOutcome := exchange 16 s

end Sys2Proof.Machine
end

