-- ==== Sys2Proof/Machine/Step.lean ====
section
/-! DEFINITION. One step of the interpreter loop (spec/40_execution.md rule R80), and the placing of an instruction where
the next step fetches it. -/

namespace Sys2Proof.Machine

/-- A step from FETCHING (R80): at the end of the code the run halts (R81); otherwise the instruction at pc is decoded and
executed. -/
def stepFetching (s : State) : StepOutcome :=
  match decode s.fetchBytes with
  | .error .noOpcode => .next s.halt
  | .ok (i, _) => exec i s

/-- One step. It runs "only when rs == FETCHING" (R80, R29) and for code the parameters admit (I10). -/
def step (s : State) : Host.Outcome State Fault Refusal :=
  match s.rs with
  | .fetching => if s.codeAdmitted then stepFetching s else .refused .codeTooLong
  | .halted => s.endOfRun
  | .failed => s.endOfRun

/-- `s` with one instruction of the opcode table laid out at pc, its bits above `nbits` zero, up to the longest
instruction, and the loop about to fetch it. It stands for the caller's load of CODE: notes/assumptions/5.md. -/
def State.withFetchWord (s : State) (nbits w : Nat) : State :=
  { s with rs := .fetching, code := s.code.place s.pc (tableBytes maxInstrBytes nbits w) }

end Sys2Proof.Machine
end

