-- ==== Sys2Proof/Machine/Interface.lean ====
section
/-! DEFINITION. The core's one entry point, `execute(code)`, as transactions (spec/10_state.md rules R34, R35): the start of
an invocation, the ports it presents, and the run from start to its end (spec/40_execution.md rules R89, R90). -/

namespace Sys2Proof.Machine

/-- `start` (R34): the reset of an invocation (R330), with the caller's code and the parameters. -/
def State.start (cfg : Config) (code : List Byte) : State where
  code  := Memory.ofBytes code
  stack := []
  pc    := 0
  rs    := .fetching
  cause := .none
  cfg   := cfg

/-- `done` (R34): "true once rs is HALTED or FAILED". -/
def State.done (s : State) : Bool := s.rs != .fetching

/-- `success` (R30): a function of the terminal run state; it has no value while rs is FETCHING. -/
def State.success (s : State) : Option Bool :=
  match s.rs with
  | .fetching => none
  | .halted => some true
  | .failed => some false

/-- `final_stack` (R34): S top first, "valid when done". -/
def State.finalStack (s : State) : Option (List Word) := if s.done then some s.stack else none

/-- `cause` at the interface (R34): "valid when done". -/
def State.causeOut (s : State) : Option Cause := if s.done then some s.cause else none

/-- The Execution Result (R34, R90), with the cause beside it. -/
structure Result where
  success    : Bool
  finalStack : List Word
  cause      : Cause
deriving DecidableEq, Repr

/-- What the interface presents at a terminal state. -/
def State.result (s : State) : Option Result :=
  match s.rs with
  | .fetching => none
  | .halted => some { success := true, finalStack := s.stack, cause := s.cause }
  | .failed => some { success := false, finalStack := s.stack, cause := s.cause }

/-- The loop (R80, R89): step while rs is FETCHING, at most `fuel` times. -/
def loop : Nat → State → StepOutcome
  | 0, s => .next s
  | fuel + 1, s =>
    match s.rs with
    | .fetching =>
      match step s with
      | .next t => loop fuel t
      | o => o
    | _ => .next s

/-- `execute(code)` (R34): one whole invocation. `L + 1` steps are enough for any run (R89). -/
def execute (cfg : Config) (code : List Byte) : Option Result :=
  match loop (code.length + 1) (State.start cfg code) with
  | .next t => t.result
  | _ => none

end Sys2Proof.Machine
end

