-- ==== Sys2Proof/Safety.lean ====
section
/-! DEFINITION. What a good state is, in the terms the claims use: the conditions the spec states for the elements of the
state and that every step keeps. -/

namespace Sys2Proof.Machine

/-- The invariant of a run. -/
structure State.Inv (s : State) : Prop where
  /-- CODE is in canonical form. -/
  codeWf    : s.code.wf = true
  /-- "L is any natural number from 0 to CODE_LEN_MAX" (R21). -/
  admitted  : s.codeAdmitted = true
  /-- "the last value it can take is at most L + 32" (R27). -/
  pcBound   : s.pc ≤ s.code.len + 32
  /-- S has "depth unbounded or at most STACK_CAPACITY" (R20). -/
  stackFits : fits s.cfg.stackCapacity s.stack.length = true
  /-- cause "is NONE (0) from reset until fault entry writes it" and "In HALTED it stays NONE" (R31). -/
  causeIff  : s.cause ≠ .none ↔ s.rs = .failed

/-- A step can be taken: rs is FETCHING (R29) and the code is one the parameters admit (I10). -/
structure State.Runnable (s : State) : Prop where
  fetching : s.rs = .fetching
  admitted : s.codeAdmitted = true

end Sys2Proof.Machine
end

