-- ==== Sys2Proof/Certificates/Slice0/Obligations.lean ====
section
/-! DEFINITION. The statements about the machine, each formalising a numbered rule of spec/ or derived from its sections.
Next states are written out as record updates of the state before, so that each says its frame: whatever is not named is
unchanged. No statement is about a program. -/

namespace Sys2Proof.Claims

open Sys2Proof.Machine

/-! ### The shapes the statements share -/

/-- The state after an instruction with `n` immediate bytes that completes with stack `S`: pc is past it (R27, R80); CODE,
rs, cause and the parameters are unchanged. -/
def completed (s : State) (n : Nat) (S : List Word) : State := { s with pc := s.pc + 1 + n, stack := S }

/-- The state after a fault raised once pc is past an instruction with `n` immediate bytes: S is unchanged (R306). -/
def faultedPast (s : State) (n : Nat) (c : Cause) : State :=
  { s with pc := s.pc + 1 + n, rs := .failed, cause := c }

/-- The depth is within STACK_CAPACITY (R20): part of the invariant `State.Inv`. -/
abbrev DepthOk (s : State) : Prop := fits s.cfg.stackCapacity s.stack.length = true

/-- One more element fits. -/
abbrev RoomForOne (s : State) : Prop := fits s.cfg.stackCapacity (s.stack.length + 1) = true

/-- `i` is the one-byte instruction (Format O, R60) with this opcode byte: it encodes as that byte, and wherever that byte
stands the decoder reads `i` and takes no further byte. -/
def OneByte (i : Instr) (op : Byte) : Prop :=
  encode i = [op] ∧ ∀ rest, decode (op :: rest) = .ok (i, rest)

/-- An instruction that pops a (the top), pushes one result `r` with `Rel a r`, and underflows below depth 1. -/
def UnaryRule (i : Instr) (op : Byte) (Rel : Config → Word → Word → Prop) : Prop :=
  OneByte i op ∧
  (∀ (s : State) (a : Word) (S : List Word), s.stack = a :: S → DepthOk s →
    ∃ r, Rel s.cfg a r ∧ exec i s = .next (completed s 0 (r :: S))) ∧
  (∀ s : State, s.stack.length < 1 → exec i s = .next (faultedPast s 0 .stackUnderflow))

/-- An instruction that pops a (the top) and b, pushes one result `r` with `Rel a b r`, and underflows below depth 2. -/
def BinaryRule (i : Instr) (op : Byte) (Rel : Config → Word → Word → Word → Prop) : Prop :=
  OneByte i op ∧
  (∀ (s : State) (a b : Word) (S : List Word), s.stack = a :: b :: S → DepthOk s →
    ∃ r, Rel s.cfg a b r ∧ exec i s = .next (completed s 0 (r :: S))) ∧
  (∀ s : State, s.stack.length < 2 → exec i s = .next (faultedPast s 0 .stackUnderflow))

/-- An instruction that pops a (the top), b and c, pushes one result `r` with `Rel a b c r`, and underflows below
depth 3. -/
def TernaryRule (i : Instr) (op : Byte) (Rel : Config → Word → Word → Word → Word → Prop) : Prop :=
  OneByte i op ∧
  (∀ (s : State) (a b c : Word) (S : List Word), s.stack = a :: b :: c :: S → DepthOk s →
    ∃ r, Rel s.cfg a b c r ∧ exec i s = .next (completed s 0 (r :: S))) ∧
  (∀ s : State, s.stack.length < 3 → exec i s = .next (faultedPast s 0 .stackUnderflow))

/-- A PUSHn at pc is truncated and the policy makes that a fault (R46, R80). -/
abbrev TruncationFault (s : State) (n : Nat) : Prop :=
  s.truncated n ∧ s.cfg.truncatedPushPolicy = .fault

end Sys2Proof.Claims

open Sys2Proof Sys2Proof.Machine Sys2Proof.Claims

/-! ### Reset, run states, the loop -/

/-- R330: what the reset of an invocation leaves in each element of the state, for every code and every parameter
value; the parameters stay fixed for the invocation. -/
def Obligations.StartLeavesResetState : Prop :=
  (∀ (cfg : Config) (code : List Byte),
    let s := State.start cfg code
    s.stack = [] ∧ s.pc = 0 ∧ s.rs = .fetching ∧ s.cause = .none ∧ s.cfg = cfg ∧ s.success = none ∧
      s.code.len = code.length ∧ ∀ a, s.code.read a = code[a]?) ∧
  (∀ s t : State, step s = .next t → t.cfg = s.cfg) ∧ Cause.none.encoding = 0

/-- The invariant holds after reset, whatever admitted code and parameters the invocation starts with. -/
def Obligations.ResetMeetsInvariant : Prop :=
  State.reset.Inv ∧
  ∀ (cfg : Config) (code : List Byte), (State.start cfg code).codeAdmitted = true → (State.start cfg code).Inv

/-- Every step keeps the invariant: CODE canonical and admitted, `pc <= L + 32` (R27), depth within STACK_CAPACITY (R20),
and cause NONE exactly outside FAILED (R31). From every state that meets it, not only those a run reaches. -/
def Obligations.StepKeepsInvariant : Prop :=
  ∀ s t : State, s.Inv → step s = .next t → t.Inv

/-- The spec's own decision D13 (10_state.md section 5; that no parameter value is a limit is the model's choice,
notes/assumptions/3.md): under the inequality CODE_LEN_MAX + 33 <= 2^PC_BITS, pc fits PC_BITS bits in every state that meets the
invariant, and pc + 1 + 32 does not wrap where an instruction is fetched. -/
def Obligations.PcFitsItsBits : Prop :=
  ∀ (s : State) (l : Limits), s.Inv → s.cfg.limits = some l →
    s.pc < 2 ^ l.pcBits ∧ (s.pc < s.code.len → s.pc + 1 + 32 < 2 ^ l.pcBits)

/-- R29: the run starts in FETCHING with pc = 0; only FETCHING has a next step, so HALTED and FAILED are never left; the
encoding of the field, which the rule marks as the spec's decision D17. What `step` answers in place of a next step is
`EndedRunsStopByName`. -/
def Obligations.OnlyFetchingHasANextStep : Prop :=
  State.reset.rs = .fetching ∧ State.reset.pc = 0 ∧
  (∀ cfg code, (State.start cfg code).rs = .fetching ∧ (State.start cfg code).pc = 0) ∧
  (∀ s t : State, step s = .next t → s.rs = .fetching) ∧
  (∀ s : State, s.rs = .halted ∨ s.rs = .failed → ∀ t, step s ≠ .next t) ∧
  RunState.fetching.encoding = 0 ∧ RunState.halted.encoding = 1 ∧ RunState.failed.encoding = 2 ∧
  ∀ r : RunState, r.encoding ≠ 3

/-- From FETCHING a step answers a next state exactly when the parameters admit the code; code longer than CODE_LEN_MAX is
refused by name, and a step is refused for no other reason (spec/93 I10; "No behaviour of the core is `stuck`"). -/
def Obligations.StepAnswersUnlessCodeTooLong : Prop :=
  ∀ s : State, s.rs = .fetching →
    ((∃ t, step s = .next t) ↔ ∀ l, s.cfg.limits = some l → s.code.len ≤ l.codeLenMax) ∧
    ((∃ l, s.cfg.limits = some l ∧ l.codeLenMax < s.code.len) ↔ step s = .refused .codeTooLong) ∧
    ∀ f, step s ≠ .fault f

/-- A step runs the decoded instruction (R80): where the bytes of a well-formed instruction stand in CODE at pc, whole, step
is exec of that instruction in that state, pc still at its opcode byte. Step adds nothing around it. -/
def Obligations.StepRunsDecodedInstruction : Prop :=
  ∀ (s : State) (i : Instr), s.Runnable → i.WellFormed →
    (∀ k b, (encode i)[k]? = some b → s.code.read (s.pc + k) = some b) → step s = exec i s

/-- R81: at the end of the code the run ends in HALTED with success = true, and nothing else changes: pc keeps its value,
be it L or more. Empty code is the case L = 0. -/
def Obligations.EndOfCodeHalts : Prop :=
  ∀ s : State, s.Runnable → s.code.len ≤ s.pc →
    step s = .next { s with rs := .halted } ∧ ({ s with rs := .halted } : State).success = some true

/-- R82: STOP halts with success = true; pc and S and everything else unchanged, on every stack, the empty one
included, and whatever bytes follow it; a byte 0x00 inside a PUSHn immediate is data, not a STOP; the rule's example. -/
def Obligations.StopHalts : Prop :=
  OneByte .stop 0x00 ∧
  (∀ s : State, exec .stop s = .next { s with rs := .halted } ∧
    ({ s with rs := .halted } : State).success = some true) ∧
  (∀ s : State, s.Runnable → s.code.read s.pc = some 0x00 → step s = .next { s with rs := .halted }) ∧
  (∀ (s : State) (n k : Nat), s.Runnable → 1 ≤ k → k ≤ n → n ≤ 32 →
    s.code.read s.pc = some (BitVec.ofNat 8 (0x5F + n)) → s.code.read (s.pc + k) = some 0x00 →
    s.pc + n < s.code.len → RoomForOne s → ∃ w, step s = .next (completed s n (w :: s.stack))) ∧
  execute Config.reference [0x00] = some { success := true, finalStack := [], cause := .none }

/-- R86 and R302 (the reference value is the spec's decision D3, the code 2 its decision D17): an undefined byte under Skip is a one-byte no-op with no stack requirement; under Fault pc is the byte's
offset + 1, the cause is UNKNOWN_OPCODE (2) and S is unchanged; it reads no immediate, whatever byte it is. -/
def Obligations.UndefinedByteSkipsOrFaults : Prop :=
  (∀ op : Byte, isUndefinedByte op = true → OneByte (.undefined op) op) ∧
  (∀ (op : Byte) (s : State), s.cfg.unknownOpcodePolicy = .skip →
    exec (.undefined op) s = .next { s with pc := s.pc + 1 }) ∧
  (∀ (op : Byte) (s : State), s.cfg.unknownOpcodePolicy = .fault →
    exec (.undefined op) s = .next { s with pc := s.pc + 1, rs := .failed, cause := .unknownOpcode }) ∧
  Config.reference.unknownOpcodePolicy = .skip ∧ Cause.unknownOpcode.encoding = 2

/-- The order is the spec's own decision D15 (60_exceptions.md section 3): of several conditions that hold at once the first wins, in the order end of code, STOP, undefined byte, truncated
immediate, underflow, overflow. `i` is the instruction decoded at pc. -/
def Obligations.FirstConditionWins : Prop :=
  ∀ s t : State, s.Runnable → step s = .next t →
    (s.code.len ≤ s.pc ∧ t.rs = .halted ∧ t.cause = s.cause) ∨
    ∃ i rest, decode s.fetchBytes = .ok (i, rest) ∧ s.pc < s.code.len ∧
      (if i = .stop then t.rs = .halted ∧ t.cause = s.cause
       else if i = .undefined i.opcode then
         (if s.cfg.unknownOpcodePolicy = .skip then t.rs = .fetching ∧ t.cause = s.cause
          else t.rs = .failed ∧ t.cause = .unknownOpcode)
       else if 0 < i.immBytes ∧ s.code.len ≤ s.pc + i.immBytes ∧ s.cfg.truncatedPushPolicy = .fault then
         t.rs = .failed ∧ t.cause = .truncatedImmediate
       else if s.stack.length < (arityOf i).need then t.rs = .failed ∧ t.cause = .stackUnderflow
       else if fits s.cfg.stackCapacity (s.stack.length - (arityOf i).pops + (arityOf i).pushes) = false then
         t.rs = .failed ∧ t.cause = .stackOverflow
       else t.rs = .fetching ∧ t.cause = s.cause)

/-- An inference the spec marks as its own (40_execution.md section 4, "every run ends after at most `L + 1` steps"): every run
ends, after at most L + 1 steps, in HALTED or FAILED. -/
def Obligations.EveryRunEnds : Prop :=
  ∀ (cfg : Config) (code : List Byte), (State.start cfg code).codeAdmitted = true →
    ∃ k t, k ≤ code.length + 1 ∧ Host.Core.run core k (State.start cfg code) = .next t ∧
      (t.rs = .halted ∨ t.rs = .failed)

/-- R90: `execute` answers a result for every admitted code, and it is the success flag and the stack of the state in which
the run of steps from start ends. -/
def Obligations.ExecutePresentsTheFinalState : Prop :=
  ∀ (cfg : Config) (code : List Byte), (State.start cfg code).codeAdmitted = true →
    ∃ r, execute cfg code = some r ∧
      ∀ k t, Host.Core.run core k (State.start cfg code) = .next t → t.rs ≠ .fetching →
        (r.success = true ↔ t.rs = .halted) ∧ r.finalStack = t.stack ∧ r.cause = t.cause

/-- R30: success is a function of the terminal run state, and has no value while rs is FETCHING. With it, what R34 presents:
the stack top first and the cause, once done. -/
def Obligations.SuccessIsHalted : Prop :=
  ∀ s : State,
    (s.rs = .fetching → s.done = false ∧ s.success = none ∧ s.finalStack = none ∧ s.causeOut = none ∧
      s.result = none) ∧
    (s.rs ≠ .fetching → s.done = true ∧ s.success = some (decide (s.rs = .halted)) ∧ s.finalStack = some s.stack ∧
      s.causeOut = some s.cause ∧
      s.result = some { success := decide (s.rs = .halted), finalStack := s.stack, cause := s.cause })

/-! ### State that no instruction writes; the pc -/

/-- R52: "CODE is immutable for the duration of the invocation ... and no instruction writes any memory": after every
instruction and every step every offset reads as before and L is unchanged, so at every point of a run every fetch sees
the bytes the caller supplied. The parameters too are unchanged (R33). -/
def Obligations.CodeAndParametersNeverChange : Prop :=
  (∀ (i : Instr) (s t : State), exec i s = .next t →
    t.code.len = s.code.len ∧ (∀ a, t.code.read a = s.code.read a) ∧ t.cfg = s.cfg) ∧
  (∀ s t : State, step s = .next t →
    t.code.len = s.code.len ∧ (∀ a, t.code.read a = s.code.read a) ∧ t.cfg = s.cfg) ∧
  ∀ (cfg : Config) (code : List Byte) (k : Nat) (t : State),
    Host.Core.run core k (State.start cfg code) = .next t → ∀ a, t.code.read a = code[a]?

/-- 10_state.md section 5; the bound L + 32 is an inference the spec marks as its own: pc never decreases; a step after which the run goes on sets it to pc + 1 + N, N the immediate width of the opcode
byte (0 for an undefined byte); STOP and the end of the code leave it; it never passes L + 32. -/
def Obligations.PcOnlyAdvances : Prop :=
  ∀ s t : State, step s = .next t →
    s.pc ≤ t.pc ∧
    (t.rs = .fetching → ∃ op, s.code.read s.pc = some op ∧ t.pc = s.pc + 1 + immWidth op) ∧
    (t.rs = .halted → t.pc = s.pc) ∧
    (s.pc ≤ s.code.len + 32 → t.pc ≤ s.code.len + 32)

/-- The code buffer an invocation starts with holds exactly the caller's bytes and is in canonical form; an offset at or
beyond L has no byte (R21, R40, R41). -/
def Obligations.CodeBufferHoldsTheBytes : Prop :=
  ∀ bs : List Byte, (Memory.ofBytes bs).wf = true ∧ (Memory.ofBytes bs).len = bs.length ∧
    ∀ a, (Memory.ofBytes bs).read a = bs[a]?

/-- Two code buffers in canonical form that have the same length and read alike are equal data (the model's own form of
memory: notes/assumptions/4.md). -/
def Obligations.EqualBuffersAreEqualData : Prop :=
  ∀ m m' : Memory, m.wf = true → m'.wf = true → m.len = m'.len → (∀ a, m.read a = m'.read a) → m = m'

/-! ### Encoding -/

/-- Decoding the encoding of a well-formed instruction gives it back, every immediate at every value, and leaves the bytes
after it (R60 to R65). -/
def Obligations.DecodeInvertsEncode : Prop :=
  ∀ (i : Instr) (rest : List Byte), i.WellFormed → decode (encode i ++ rest) = .ok (i, rest)

/-- Each byte sequence has one meaning: what the decoder reads is well formed, and where its bytes are all there they are
its encoding (R62, R71). -/
def Obligations.EncodeInvertsDecode : Prop :=
  ∀ (bs : List Byte) (i : Instr) (rest : List Byte), decode bs = .ok (i, rest) →
    i.WellFormed ∧ (i.immBytes < bs.length → encode i ++ rest = bs)

/-- A few words written out from the tables of R60 and R64 decode to the instructions they stand for. -/
def Obligations.DecodesWrittenWords : Prop :=
  decode [0x00] = .ok (.stop, []) ∧
  decode [0x0A, 0xFF] = .ok (.exp, [0xFF]) ∧
  decode [0x15] = .ok (.iszero, []) ∧
  decode [0x1D] = .ok (.sar, []) ∧
  decode [0x62, 0x00, 0x01, 0x02, 0x50] = .ok (.push3 0x000102, [0x50]) ∧
  decode [0x8F] = .ok (.dup16, []) ∧
  decode [0x90] = .ok (.swap1, []) ∧
  decode [0xFE, 0x60] = .ok (.undefined 0xFE, [0x60])

/-- R69: the undefined bytes are 0x0C to 0x0F, 0x1E to 0x4F, 0x51 to 0x5E and 0xA0 to 0xFF, 164 of them, and the decoder
reads exactly those as undefined, without a further byte. -/
def Obligations.UndefinedBytesAreThe164 : Prop :=
  (∀ op : Byte, (∃ i rest b, decode (op :: rest) = .ok (i, rest) ∧ i = .undefined b) ↔
    (0x0C ≤ op ∧ op ≤ 0x0F) ∨ (0x1E ≤ op ∧ op ≤ 0x4F) ∨ (0x51 ≤ op ∧ op ≤ 0x5E) ∨ 0xA0 ≤ op) ∧
  (∀ (op b : Byte) (bs rest : List Byte), decode (op :: bs) = .ok (.undefined b, rest) → b = op ∧ rest = bs) ∧
  ((List.range 256).filter (fun n => isUndefinedByte (BitVec.ofNat 8 n))).length = 164

/-- R62: the immediate width is a function of the opcode byte alone: op - 0x5F from 0x60 to 0x7F, else 0. -/
def Obligations.OpcodeAloneGivesTheLength : Prop :=
  ∀ (op : Byte) (bs : List Byte) (i : Instr) (rest : List Byte), decode (op :: bs) = .ok (i, rest) →
    i.immBytes = (if 0x60 ≤ op.toNat ∧ op.toNat ≤ 0x7F then op.toNat - 0x5F else 0) ∧
    rest = bs.drop i.immBytes

/-- R63: the immediate of PUSHn is the big-endian unsigned value of its n bytes, zero-extended; PUSH0's is 0. The sum is
that of R10. -/
def Obligations.ImmediateIsBigEndian : Prop :=
  (∀ (n : Nat) (bs rest : List Byte), 1 ≤ n → n ≤ 32 → (h : bs.length = n) →
    ∃ i, decode (BitVec.ofNat 8 (0x5F + n) :: (bs ++ rest)) = .ok (i, rest) ∧ i.pushWidth = some n ∧
      i.immediate = ∑ k : Fin n, (bs.get (k.cast h.symm)).toNat * 256 ^ (n - 1 - k.val)) ∧
  (∀ rest : List Byte, decode (0x5F :: rest) = .ok (.push0, rest)) ∧ Instr.push0.immediate = 0

/-! ### Faults -/

/-- R306: fault entry. A step that ends in FAILED changes rs and cause (to one that is not NONE) and at most the pc; S is
the stack before the instruction. -/
def Obligations.FaultsKeepTheStack : Prop :=
  ∀ s t : State, step s = .next t → t.rs = .failed →
    t = { s with pc := t.pc, rs := .failed, cause := t.cause } ∧ t.cause ≠ .none ∧
    t.done = true ∧ t.success = some false ∧ t.finalStack = some s.stack ∧ t.causeOut = some t.cause

/-- R85 and R301: below its required depth every instruction raises STACK_UNDERFLOW (1), with S unchanged and pc past the
instruction. -/
def Obligations.UnderflowLeavesTheStack : Prop :=
  (∀ (i : Instr) (s : State), s.stack.length < (arityOf i).need →
    exec i s = .next { s with pc := s.pc + 1, rs := .failed, cause := .stackUnderflow } ∧
      ({ s with pc := s.pc + 1, rs := .failed, cause := .stackUnderflow } : State).success = some false) ∧
  Cause.stackUnderflow.encoding = 1

/-- The spec's own decision D5 (40_execution.md section 3, 60_exceptions.md section 1). With STACK_CAPACITY = C: an
instruction whose result depth would exceed C raises STACK_OVERFLOW (4) with S unchanged and pc past it; one whose
result depth is within C does not; from a depth within C only PUSHn and DUPn raise it, and only at depth C (R304). With
`unbounded` no instruction raises it. STOP and the undefined bytes never reach the test, and truncation and underflow
come before it (R309).
That the first clause also holds for an instruction that does not grow the stack, where the depth already exceeds C, is
the model's choice of R80's words over R304's (notes/assumptions/12.md); the invariant rules such states out. -/
def Obligations.OverflowOnlyAtFiniteCapacity : Prop :=
  (∀ (i : Instr) (s : State) (c : Nat), i ≠ .stop → (∀ op, i ≠ .undefined op) → s.cfg.stackCapacity = .atMost c →
    ¬ TruncationFault s i.immBytes → (arityOf i).need ≤ s.stack.length →
    c < s.stack.length - (arityOf i).pops + (arityOf i).pushes →
    exec i s = .next { s with pc := s.pc + 1 + i.immBytes, rs := .failed, cause := .stackOverflow }) ∧
  (∀ (i : Instr) (s t : State) (c : Nat), s.cfg.stackCapacity = .atMost c → exec i s = .next t →
    s.cause ≠ .stackOverflow → s.stack.length - (arityOf i).pops + (arityOf i).pushes ≤ c →
    t.cause ≠ .stackOverflow) ∧
  (∀ (i : Instr) (s t : State) (c : Nat), s.cfg.stackCapacity = .atMost c → DepthOk s → exec i s = .next t →
    s.cause ≠ .stackOverflow → t.cause = .stackOverflow →
    s.stack.length = c ∧
      ((∃ n v, n ≤ 32 ∧ i = pushOf n v) ∨ ∃ n, 1 ≤ n ∧ n ≤ 16 ∧ i = dupOf n)) ∧
  (∀ (i : Instr) (s t : State), s.cfg.stackCapacity = .unbounded → exec i s = .next t → s.cause ≠ .stackOverflow →
    t.cause ≠ .stackOverflow) ∧
  Config.reference.stackCapacity = .unbounded ∧ Cause.stackOverflow.encoding = 4

/-- The spec's own decision D7 (20_memory.md section 2, 60_exceptions.md section 1): a PUSHn at offset p with p + n >= L. Under ZeroPad every missing byte reads as 0x00, the value pushed is
`be(present bytes) * 256^(p+n-L+1)`, pc becomes p + 1 + n, past L, and the next step halts; under Fault the step raises
TRUNCATED_IMMEDIATE (3) with S and pc unchanged. -/
def Obligations.TruncatedImmediatePadsOrFaults : Prop :=
  (∀ (s : State) (n : Nat), s.Runnable → 1 ≤ n → n ≤ 32 →
    s.code.read s.pc = some (BitVec.ofNat 8 (0x5F + n)) → s.code.len ≤ s.pc + n →
    (s.cfg.truncatedPushPolicy = .zeroPad → RoomForOne s →
      let present := s.code.window (s.pc + 1) (s.code.len - (s.pc + 1))
      let t := completed s n (BitVec.ofNat 256 (be present * 256 ^ (s.pc + n - s.code.len + 1)) :: s.stack)
      step s = .next t ∧ be present * 256 ^ (s.pc + n - s.code.len + 1) < 2 ^ 256 ∧ s.code.len < t.pc ∧
        step t = .next { t with rs := .halted }) ∧
    (s.cfg.truncatedPushPolicy = .fault →
      step s = .next { s with rs := .failed, cause := .truncatedImmediate })) ∧
  Config.reference.truncatedPushPolicy = .zeroPad ∧ Cause.truncatedImmediate.encoding = 3

/-! ### Depth, frames and what an instruction may depend on -/

/-- 40_execution.md section 3, whose rows for EXP and for the depths DUPn and SWAPn need are inferences the spec marks as its
own: the arity table, and that every instruction keeps to it: one that completes required its `need`, and leaves the
depth |S| - pops + pushes. -/
def Obligations.DepthFollowsTheArityTable : Prop :=
  (arityOf .stop = ⟨0, 0, 0⟩ ∧
   (∀ i ∈ [Instr.add, .mul, .sub, .div, .sdiv, .mod, .smod, .exp, .lt, .gt, .slt, .sgt, .eq, .and, .or, .xor, .byte,
      .shl, .shr, .sar, .signextend], arityOf i = ⟨2, 2, 1⟩) ∧
   arityOf .addmod = ⟨3, 3, 1⟩ ∧ arityOf .mulmod = ⟨3, 3, 1⟩ ∧
   arityOf .iszero = ⟨1, 1, 1⟩ ∧ arityOf .not = ⟨1, 1, 1⟩ ∧ arityOf .pop = ⟨1, 1, 0⟩ ∧
   (∀ n v, n ≤ 32 → arityOf (pushOf n v) = ⟨0, 0, 1⟩) ∧
   (∀ n, 1 ≤ n → n ≤ 16 → arityOf (dupOf n) = ⟨n, 0, 1⟩) ∧
   (∀ n, 1 ≤ n → n ≤ 16 → arityOf (swapOf n) = ⟨n + 1, 0, 0⟩)) ∧
  ∀ (i : Instr) (s t : State), s.rs = .fetching → exec i s = .next t → t.rs ≠ .failed →
    (arityOf i).need ≤ s.stack.length ∧
    t.stack.length = s.stack.length - (arityOf i).pops + (arityOf i).pushes

/-- 10_state.md section 3: no instruction reads or writes a slot deeper than 17. One that completes leaves every element below its `need`
topmost where it was, and `need` is at most 17. -/
def Obligations.DeepStackIsUntouched : Prop :=
  ∀ (i : Instr) (s t : State), s.rs = .fetching → exec i s = .next t → t.rs ≠ .failed →
    (arityOf i).need ≤ 17 ∧
    t.stack.drop ((arityOf i).need - (arityOf i).pops + (arityOf i).pushes) = s.stack.drop (arityOf i).need

/-- 40_execution.md section 3: what an instruction leaves on the stack is computed from its operands alone. Two states that agree on the
parameters and on the topmost `need` elements, and on nothing else, agree afterwards on everything the instruction
left above the untouched part, whatever pc, rs, CODE and the deeper stack are. -/
def Obligations.ResultsDependOnOperandsAlone : Prop :=
  ∀ (i : Instr) (s s' t t' : State), s.cfg = s'.cfg →
    s.stack.take (arityOf i).need = s'.stack.take (arityOf i).need → s.rs = .fetching → s'.rs = .fetching →
    exec i s = .next t → exec i s' = .next t' → t.rs ≠ .failed → t'.rs ≠ .failed →
    t.stack.take ((arityOf i).need - (arityOf i).pops + (arityOf i).pushes) =
      t'.stack.take ((arityOf i).need - (arityOf i).pops + (arityOf i).pushes)

/-! ### Arithmetic -/

/-- R8: the signed view, its range, its inverse, and that it is reversible. -/
def Obligations.SignedViewIsReversible : Prop :=
  (∀ w : Word, (w.getLsbD 255 = false → toSigned w = w.toNat) ∧
    (w.getLsbD 255 = true → toSigned w = w.toNat - 2 ^ 256) ∧
    -2 ^ 255 ≤ toSigned w ∧ toSigned w < 2 ^ 255 ∧ wrap (toSigned w) = w) ∧
  (∀ v : Int, ((wrap v).toNat : Int) = v % 2 ^ 256) ∧
  ∀ v : Int, -2 ^ 255 ≤ v → v < 2 ^ 255 → toSigned (wrap v) = v

/-- R100: ADD pushes (a + b) mod 2^256. -/
def Obligations.AddResult : Prop :=
  BinaryRule .add 0x01 fun _ a b r => r.toNat = (a.toNat + b.toNat) % 2 ^ 256

/-- R101: MUL pushes (a * b) mod 2^256. -/
def Obligations.MulResult : Prop :=
  BinaryRule .mul 0x02 fun _ a b r => r.toNat = (a.toNat * b.toNat) % 2 ^ 256

/-- R102: SUB pushes (a - b) mod 2^256, a the top. -/
def Obligations.SubResult : Prop :=
  BinaryRule .sub 0x03 fun _ a b r => (r.toNat : Int) = ((a.toNat : Int) - b.toNat) % 2 ^ 256

/-- R103: DIV pushes 0 if b = 0, else a div b, a the top. -/
def Obligations.DivResult : Prop :=
  BinaryRule .div 0x04 fun _ a b r => r.toNat = if b.toNat = 0 then 0 else a.toNat / b.toNat

/-- R104 (rounding and zero divisor are the spec's decision D9): SDIV pushes 0 if b = 0, else the quotient of the signed views rounded toward zero, re-encoded; -2^255 divided by
-1 wraps to -2^255. -/
def Obligations.SdivResult : Prop :=
  BinaryRule .sdiv 0x05 fun _ a b r =>
    (b = 0 → r = 0) ∧
    (b ≠ 0 → (r.toNat : Int) = Int.tdiv a.toInt b.toInt % 2 ^ 256 ∧
      (a.toInt = -2 ^ 255 → b.toInt = -1 → r.toInt = -2 ^ 255))

/-- R105: MOD pushes 0 if b = 0, else a mod b, unsigned; the result is below b. -/
def Obligations.ModResult : Prop :=
  BinaryRule .mod 0x06 fun _ a b r =>
    (b.toNat = 0 → r.toNat = 0) ∧ (b.toNat ≠ 0 → r.toNat = a.toNat % b.toNat ∧ r.toNat < b.toNat)

/-- R106 (the sign is the spec's decision D10): SMOD pushes 0 if b = 0, else the remainder of the signed views with the sign of a; its magnitude is below
that of b. -/
def Obligations.SmodResult : Prop :=
  BinaryRule .smod 0x07 fun _ a b r =>
    (b = 0 → r = 0) ∧
    (b ≠ 0 → r.toInt = a.toInt - b.toInt * Int.tdiv a.toInt b.toInt ∧ r.toInt.natAbs < b.toInt.natAbs ∧
      (0 ≤ a.toInt → 0 ≤ r.toInt) ∧ (a.toInt ≤ 0 → r.toInt ≤ 0))

/-- SDIV and SMOD on the same operands pair up: a = b * q + r, modulo 2^256, for every b that is not 0 (R106). -/
def Obligations.SdivAndSmodPairUp : Prop :=
  ∀ (s : State) (a b : Word) (S : List Word), s.stack = a :: b :: S → DepthOk s → b ≠ 0 →
    ∃ q r, exec .sdiv s = .next (completed s 0 (q :: S)) ∧ exec .smod s = .next (completed s 0 (r :: S)) ∧
      a = b * q + r

/-- R107 (the exact sum is the spec's decision D12): ADDMOD pushes 0 if m = 0, else (a + b) mod m, the sum exact. -/
def Obligations.AddmodResult : Prop :=
  TernaryRule .addmod 0x08 fun _ a b m r => r.toNat = if m.toNat = 0 then 0 else (a.toNat + b.toNat) % m.toNat

/-- R108 (the exact product is the spec's decision D12): MULMOD pushes 0 if m = 0, else (a * b) mod m, the product exact. -/
def Obligations.MulmodResult : Prop :=
  TernaryRule .mulmod 0x09 fun _ a b m r => r.toNat = if m.toNat = 0 then 0 else (a.toNat * b.toNat) % m.toNat

/-- R109 (`0 ** 0 = 1` is the spec's decision D11): EXP pushes (a ** b) mod 2^256, a the top; the machine's exponentiation by squaring is the power. -/
def Obligations.ExpResult : Prop :=
  BinaryRule .exp 0x0A fun _ a b r => r.toNat = (a.toNat ^ b.toNat) % 2 ^ 256

/-- R110, R111, R112 (the two modes are the spec's decision D4): SIGNEXTEND pops the selector k (the top) and x. Narrow: if bit 7 of x is set, bits 8 to 255 become 1
and bits 0 to 7 stay; else x is unchanged, and k does not matter. General: for k >= 31 x is unchanged, else bits 0 to
t = 8k + 7 stay and bits above t become copies of bit t. -/
def Obligations.SignextendResult : Prop :=
  BinaryRule .signextend 0x0B (fun cfg k x r =>
    (cfg.signExtendMode = .narrow → ∀ j < 256, r.getLsbD j = (x.getLsbD j || (decide (8 ≤ j) && x.getLsbD 7))) ∧
    (cfg.signExtendMode = .general → ∀ j < 256,
      r.getLsbD j = if 31 ≤ k.toNat ∨ j ≤ 8 * k.toNat + 7 then x.getLsbD j else x.getLsbD (8 * k.toNat + 7))) ∧
  Config.reference.signExtendMode = .narrow

/-! ### Comparison, bitwise, byte and shifts -/

/-- R140, R141 (the direction is the spec's decision D8): LT and GT compare unsigned, a the top, and push exactly 0 or 1. -/
def Obligations.UnsignedCompareResults : Prop :=
  BinaryRule .lt 0x10 (fun _ a b r => r = if a.toNat < b.toNat then 1 else 0) ∧
  BinaryRule .gt 0x11 (fun _ a b r => r = if b.toNat < a.toNat then 1 else 0)

/-- R142, R143 (the direction is the spec's decision D8): SLT and SGT compare the signed views. -/
def Obligations.SignedCompareResults : Prop :=
  BinaryRule .slt 0x12 (fun _ a b r => r = if a.toInt < b.toInt then 1 else 0) ∧
  BinaryRule .sgt 0x13 (fun _ a b r => r = if b.toInt < a.toInt then 1 else 0)

/-- R144, R145: EQ and ISZERO. -/
def Obligations.EqualityResults : Prop :=
  BinaryRule .eq 0x14 (fun _ a b r => r = if a.toNat = b.toNat then 1 else 0) ∧
  UnaryRule .iszero 0x15 (fun _ a r => r = if a.toNat = 0 then 1 else 0)

/-- R146, R147, R148, R149: AND, OR and XOR bit by bit; NOT is 2^256 - 1 - a. -/
def Obligations.BitwiseResults : Prop :=
  BinaryRule .and 0x16 (fun _ a b r => ∀ j < 256, r.getLsbD j = (a.getLsbD j && b.getLsbD j)) ∧
  BinaryRule .or 0x17 (fun _ a b r => ∀ j < 256, r.getLsbD j = (a.getLsbD j || b.getLsbD j)) ∧
  BinaryRule .xor 0x18 (fun _ a b r => ∀ j < 256, r.getLsbD j = (a.getLsbD j ^^ b.getLsbD j)) ∧
  UnaryRule .not 0x19 (fun _ a r => r.toNat = 2 ^ 256 - 1 - a.toNat)

/-- R150: BYTE pushes 0 for an index above 31, else the byte w[255-8i : 248-8i], index 0 the most significant. -/
def Obligations.ByteResult : Prop :=
  BinaryRule .byte 0x1A fun _ i w r =>
    (31 < i.toNat → r.toNat = 0) ∧
    (i.toNat ≤ 31 → r.toNat = (w.extractLsb' (248 - 8 * i.toNat) 8).toNat)

/-- R151, R152: SHL and SHR push 0 for shift amounts from 256 on, else (v * 2^s) mod 2^256 and v div 2^s. -/
def Obligations.LogicalShiftResults : Prop :=
  BinaryRule .shl 0x1B (fun _ s v r => r.toNat = if 256 ≤ s.toNat then 0 else (v.toNat * 2 ^ s.toNat) % 2 ^ 256) ∧
  BinaryRule .shr 0x1C (fun _ s v r => r.toNat = if 256 ≤ s.toNat then 0 else v.toNat / 2 ^ s.toNat)

/-- R153: SAR pushes, for shift amounts from 256 on, 0 or -1 by the sign of v, else the floor of the signed view divided by
2^s. -/
def Obligations.ArithmeticShiftResult : Prop :=
  BinaryRule .sar 0x1D fun _ s v r =>
    r.toInt = if 256 ≤ s.toNat then (if 0 ≤ v.toInt then 0 else -1) else ⌊(v.toInt : ℚ) / 2 ^ s.toNat⌋

/-! ### Stack moves -/

/-- R180: POP removes the top and nothing else; on the empty stack it underflows; and it never overflows where the depth is
within capacity. -/
def Obligations.PopResult : Prop :=
  OneByte .pop 0x50 ∧
  (∀ (s : State) (a : Word) (S : List Word), s.stack = a :: S → DepthOk s →
    exec .pop s = .next (completed s 0 S)) ∧
  ∀ s : State, s.stack = [] → exec .pop s = .next (faultedPast s 0 .stackUnderflow)

/-- R181: PUSHn, n from 0 to 32, for every immediate: the byte is 0x5F + n and n bytes follow; it needs no depth, pushes the
value and moves pc past the immediate; it overflows at full capacity; a truncated one under Fault is raised first.
The last clause is the rule's pseudocode on CODE itself, a byte past the end reading as 0x00 (R46). -/
def Obligations.PushResult : Prop :=
  ∀ n ≤ 32,
    (∀ v < 256 ^ n, (encode (pushOf n v)).length = 1 + n ∧
      (encode (pushOf n v)).head? = some (BitVec.ofNat 8 (0x5F + n)) ∧
      ∀ s : State,
        (TruncationFault s n → exec (pushOf n v) s = .next { s with rs := .failed, cause := .truncatedImmediate }) ∧
        (¬ TruncationFault s n → RoomForOne s →
          ∃ w : Word, w.toNat = v ∧ exec (pushOf n v) s = .next (completed s n (w :: s.stack))) ∧
        (¬ TruncationFault s n → ¬ RoomForOne s →
          exec (pushOf n v) s = .next (faultedPast s n .stackOverflow))) ∧
    (∀ s : State, s.Runnable → s.code.read s.pc = some (BitVec.ofNat 8 (0x5F + n)) →
      ¬ TruncationFault s n → RoomForOne s →
      ∃ w : Word, w.toNat = be ((List.range n).map fun k => (s.code.read (s.pc + 1 + k)).getD 0) ∧
        step s = .next (completed s n (w :: s.stack)))

/-- R215: DUPn, n from 1 to 16: byte 0x7F + n; it pushes a copy of S[n] and changes no other slot; it underflows below
depth n and overflows at full capacity. -/
def Obligations.DupResult : Prop :=
  ∀ n, 1 ≤ n → n ≤ 16 →
    OneByte (dupOf n) (BitVec.ofNat 8 (0x7F + n)) ∧
    (∀ (s : State) (v : Word), s.stack[n - 1]? = some v → RoomForOne s →
      exec (dupOf n) s = .next (completed s 0 (v :: s.stack))) ∧
    (∀ s : State, n ≤ s.stack.length → ¬ RoomForOne s →
      exec (dupOf n) s = .next (faultedPast s 0 .stackOverflow)) ∧
    ∀ s : State, s.stack.length < n → exec (dupOf n) s = .next (faultedPast s 0 .stackUnderflow)

/-- R232: SWAPn, n from 1 to 16: byte 0x8F + n; it exchanges S[1] and S[n+1] and changes no other slot; it underflows below
depth n + 1 and does not overflow where the depth is within capacity. -/
def Obligations.SwapResult : Prop :=
  ∀ n, 1 ≤ n → n ≤ 16 →
    OneByte (swapOf n) (BitVec.ofNat 8 (0x8F + n)) ∧
    (∀ (s : State) (t v : Word) (mid S : List Word), s.stack = t :: (mid ++ v :: S) → mid.length = n - 1 → DepthOk s →
      exec (swapOf n) s = .next (completed s 0 (v :: (mid ++ t :: S)))) ∧
    ∀ s : State, s.stack.length < n + 1 → exec (swapOf n) s = .next (faultedPast s 0 .stackUnderflow)

/-- Every SWAPn applied twice gives the stack back (R232, spec/95 P-7). -/
def Obligations.SwapTwiceIsIdentity : Prop :=
  ∀ (n : Nat) (s : State), 1 ≤ n → n ≤ 16 → n < s.stack.length → DepthOk s →
    ∃ t, exec (swapOf n) s = .next t ∧ exec (swapOf n) t = .next (completed t 0 s.stack)

/-- Pushing or duplicating and then popping gives the stack back (R180, spec/95 P-5 and P-6), for every PUSHn and DUPn. -/
def Obligations.PopUndoesPushAndDup : Prop :=
  (∀ (n v : Nat) (s : State), n ≤ 32 → ¬ TruncationFault s n → RoomForOne s →
    ∃ t, exec (pushOf n v) s = .next t ∧ exec .pop t = .next (completed t 0 s.stack)) ∧
  ∀ (n : Nat) (s : State), 1 ≤ n → n ≤ 16 → n ≤ s.stack.length → RoomForOne s →
    ∃ t, exec (dupOf n) s = .next t ∧ exec .pop t = .next (completed t 0 s.stack)

/-! ### The model's own choices about reset and ended runs; the step beneath the bound on runs -/

/-- The state right after reset is the start of an invocation with empty code and the reference parameters. Both are the
model's choice, not R330's, which gives CODE as the caller's bytes and the parameters as fixed: the empty code is
notes/assumptions/5.md, the reference parameters are notes/assumptions/10.md. -/
def Obligations.ResetIsStartWithoutCode : Prop :=
  State.reset = State.start Config.reference [] ∧ State.reset.code.len = 0 ∧
    step State.reset = .next { State.reset with rs := .halted }

/-- What `step` answers where R29 gives no next step: a fault of the model that names the ended run and, for FAILED, its
cause. The model's choice: notes/assumptions/6.md. -/
def Obligations.EndedRunsStopByName : Prop :=
  (∀ s : State, s.rs = .halted → step s = .fault .runHalted) ∧
  (∀ s : State, s.rs = .failed → step s = .fault (.runFailed s.cause))

/-- The step beneath the bound on runs (40_execution.md section 4, an inference the spec marks as its own): every runnable
state steps, and the step ends the run or goes on with pc raised by at least 1, from an opcode byte inside CODE; pc never
decreases. -/
def Obligations.StepEndsTheRunOrRaisesPc : Prop :=
  ∀ s : State, s.Runnable → ∃ t, step s = .next t ∧ s.pc ≤ t.pc ∧
    (t.rs = .halted ∨ t.rs = .failed ∨ (t.rs = .fetching ∧ s.pc < s.code.len ∧ s.pc + 1 ≤ t.pc))
end

