-- ==== Sys2Proof/Laws/Bytes.lean ====
section
/-! SUPPORT. The laws of big-endian bytes and of the decoder's reading of an immediate. -/

namespace Sys2Proof

/-- The fold of `be`, from any starting value. -/
theorem foldl_be (bs : List Byte) (n : Nat) :
    bs.foldl (fun acc b => acc * 256 + b.toNat) n = n * 256 ^ bs.length + be bs := by
  induction bs generalizing n with
  | nil => rw [be]; exact (Nat.mul_one n).symm
  | cons b bs ih =>
    rw [be, List.foldl_cons, List.foldl_cons, ih, ih (0 * 256 + b.toNat), List.length_cons, Nat.pow_succ]
    ring

theorem be_cons (b : Byte) (bs : List Byte) : be (b :: bs) = b.toNat * 256 ^ bs.length + be bs := by
  rw [be, List.foldl_cons, foldl_be, Nat.zero_mul, Nat.zero_add]

theorem be_nil : be [] = 0 := rfl

theorem be_lt (bs : List Byte) : be bs < 256 ^ bs.length := by
  induction bs with
  | nil => simp [be]
  | cons b bs ih =>
    have hb : b.toNat < 256 := b.isLt
    rw [be_cons, List.length_cons, Nat.pow_succ]
    calc b.toNat * 256 ^ bs.length + be bs < b.toNat * 256 ^ bs.length + 256 ^ bs.length := by omega
      _ = (b.toNat + 1) * 256 ^ bs.length := by ring
      _ ≤ 256 * 256 ^ bs.length := Nat.mul_le_mul_right _ hb
      _ = 256 ^ bs.length * 256 := by ring

@[simp] theorem beBytes_length (n v : Nat) : (beBytes n v).length = n := by
  induction n with
  | zero => rfl
  | succ n ih => simp [beBytes, ih]

/-- Assembling the bytes of a number gives it back, modulo 2^(8n). -/
theorem be_beBytes (n v : Nat) : be (beBytes n v) = v % 256 ^ n := by
  induction n with
  | zero => simp [beBytes, be, Nat.mod_one]
  | succ n ih =>
    have hb : (BitVec.ofNat 8 (v / 256 ^ n)).toNat = v / 256 ^ n % 256 := BitVec.toNat_ofNat ..
    have hm : v % 256 ^ (n + 1) = v % 256 ^ n + 256 ^ n * (v / 256 ^ n % 256) := Nat.mod_mul
    rw [beBytes, be_cons, beBytes_length, ih, hb, hm, Nat.mul_comm, Nat.add_comm]

/-- The bytes of a number that a sequence of `n` bytes assembles to are that sequence. -/
theorem beBytes_be (bs : List Byte) : beBytes bs.length (be bs) = bs := by
  have low : ∀ (n v w : Nat), v % 256 ^ n = w % 256 ^ n → beBytes n v = beBytes n w := by
    intro n
    induction n with
    | zero => intros; rfl
    | succ n ih =>
      intro v w h
      have h1 : v % 256 ^ n = w % 256 ^ n := by
        have := congrArg (· % 256 ^ n) h
        simpa [Nat.pow_succ, Nat.mod_mul_right_mod] using this
      have h2 : v / 256 ^ n % 256 = w / 256 ^ n % 256 := by
        rw [Nat.pow_succ, Nat.mod_mul, Nat.mod_mul, h1] at h
        exact Nat.eq_of_mul_eq_mul_left (Nat.pow_pos (by decide)) (Nat.add_left_cancel h)
      simp only [beBytes, ih v w h1, List.cons.injEq, and_true]
      apply BitVec.eq_of_toNat_eq
      simpa using h2
  induction bs with
  | nil => rfl
  | cons b bs ih =>
    rw [List.length_cons, beBytes, be_cons]
    congr 1
    · apply BitVec.eq_of_toNat_eq
      have hp : 0 < 256 ^ bs.length := Nat.pow_pos (by decide)
      rw [BitVec.toNat_ofNat, Nat.mul_comm, Nat.mul_add_div hp, Nat.div_eq_of_lt (be_lt bs), Nat.add_zero]
      exact Nat.mod_eq_of_lt b.isLt
    · rw [low bs.length _ (be bs) (by rw [Nat.mul_comm, Nat.mul_add_mod]), ih]

@[simp] theorem takePadded_length (n : Nat) (bs : List Byte) : (takePadded n bs).length = n := by
  induction n generalizing bs with
  | zero => rfl
  | succ n ih => cases bs <;> simp [takePadded, ih]

/-- Where the bytes are all there, the decoder takes exactly them. -/
theorem takePadded_eq_take {n : Nat} {bs : List Byte} (h : n ≤ bs.length) : takePadded n bs = bs.take n := by
  induction n generalizing bs with
  | zero => simp [takePadded]
  | succ n ih =>
    cases bs with
    | nil => simp at h
    | cons b bs => simp [takePadded, ih (Nat.le_of_succ_le_succ (by simpa using h))]

/-- Where some are missing, they read as 0x00 (R46). -/
theorem takePadded_short {n : Nat} {bs : List Byte} (h : bs.length ≤ n) :
    takePadded n bs = bs ++ List.replicate (n - bs.length) 0 := by
  induction n generalizing bs with
  | zero =>
    have : bs = [] := List.eq_nil_of_length_eq_zero (by omega)
    simp [takePadded, this]
  | succ n ih =>
    cases bs with
    | nil => have := ih (bs := []) (by simp); simp_all [takePadded, List.replicate_succ]
    | cons b bs =>
      have := ih (bs := bs) (by simpa using h)
      simp [takePadded, this]

theorem immediateAt_lt (n : Nat) (bs : List Byte) : immediateAt n bs < 256 ^ n := by
  simpa [immediateAt] using be_lt (takePadded n bs)

/-- The decoder reads back the bytes of a number. -/
theorem immediateAt_beBytes (n v : Nat) (rest : List Byte) : immediateAt n (beBytes n v ++ rest) = v % 256 ^ n := by
  rw [immediateAt, takePadded_eq_take (by simp), ← be_beBytes n v]
  congr 1
  exact List.take_left' (by simp)

end Sys2Proof
end

