-- ==== Sys2Proof/Laws/Decode.lean ====
section
/-! SUPPORT. The ranged families said once: what the decoder reads at a byte of each range, what the members of each family
encode to and mean, and that an instruction is a member of a ranged family or a one-byte instruction. Later proofs
about PUSHn, DUPn and SWAPn are then about n, not about 65 constructors. -/

namespace Sys2Proof

open Machine

/-! ### Push -/

theorem decodeOpcode_push {n : Nat} (h : n ≤ 32) (rest : List Byte) :
    decodeOpcode (BitVec.ofNat 8 (0x5F + n)) rest = pushOf n (immediateAt n rest) := by
  interval_cases n <;> rfl

theorem immWidth_push {n : Nat} (h : n ≤ 32) : immWidth (BitVec.ofNat 8 (0x5F + n)) = n := by
  interval_cases n <;> rfl

theorem pushOf_pushWidth {n : Nat} (h : n ≤ 32) (v : Nat) : (pushOf n v).pushWidth = some n := by
  interval_cases n <;> rfl

theorem pushOf_immBytes {n : Nat} (h : n ≤ 32) (v : Nat) : (pushOf n v).immBytes = n := by
  rw [Instr.immBytes, pushOf_pushWidth h]; rfl

theorem pushOf_opcode {n : Nat} (h : n ≤ 32) (v : Nat) : (pushOf n v).opcode = BitVec.ofNat 8 (0x5F + n) := by
  interval_cases n <;> rfl

theorem pushOf_immediate {n v : Nat} (h : n ≤ 32) (hv : v < 256 ^ n) : (pushOf n v).immediate = v := by
  have ofNat : ∀ w, v < 2 ^ w → (BitVec.ofNat w v).toNat = v := fun w hw => by
    rw [BitVec.toNat_ofNat, Nat.mod_eq_of_lt hw]
  interval_cases n
  · exact (Nat.lt_one_iff.1 hv).symm
  all_goals exact ofNat _ hv

theorem pushOf_wellFormed {n : Nat} (h : n ≤ 32) (v : Nat) : (pushOf n v).WellFormed := by
  interval_cases n <;> rfl

theorem pushOf_arity {n : Nat} (h : n ≤ 32) (v : Nat) : arityOf (pushOf n v) = .push := by
  interval_cases n <;> rfl

theorem exec_pushOf {n v : Nat} (h : n ≤ 32) (hv : v < 256 ^ n) (s : State) :
    exec (pushOf n v) s = pushImmediate n v s := by
  have key : exec (pushOf n v) s = pushImmediate n (pushOf n v).immediate s := by interval_cases n <;> rfl
  rw [key, pushOf_immediate h hv]

theorem encode_pushOf {n v : Nat} (h : n ≤ 32) (hv : v < 256 ^ n) :
    encode (pushOf n v) = BitVec.ofNat 8 (0x5F + n) :: beBytes n v := by
  rw [encode, pushOf_opcode h, pushOf_immBytes h, pushOf_immediate h hv]

/-! ### Duplicate and swap -/

theorem decodeOpcode_dup {n : Nat} (h1 : 1 ≤ n) (h : n ≤ 16) (rest : List Byte) :
    decodeOpcode (BitVec.ofNat 8 (0x7F + n)) rest = dupOf n := by
  interval_cases n <;> rfl

theorem encode_dupOf {n : Nat} (h1 : 1 ≤ n) (h : n ≤ 16) : encode (dupOf n) = [BitVec.ofNat 8 (0x7F + n)] := by
  interval_cases n <;> rfl

theorem immWidth_dup {n : Nat} (h1 : 1 ≤ n) (h : n ≤ 16) : immWidth (BitVec.ofNat 8 (0x7F + n)) = 0 := by
  interval_cases n <;> rfl

theorem dupOf_arity {n : Nat} (h1 : 1 ≤ n) (h : n ≤ 16) : arityOf (dupOf n) = .duplicate n := by
  interval_cases n <;> rfl

theorem exec_dupOf {n : Nat} (h1 : 1 ≤ n) (h : n ≤ 16) (s : State) : exec (dupOf n) s = duplicate n s := by
  interval_cases n <;> rfl

theorem decodeOpcode_swap {n : Nat} (h1 : 1 ≤ n) (h : n ≤ 16) (rest : List Byte) :
    decodeOpcode (BitVec.ofNat 8 (0x8F + n)) rest = swapOf n := by
  interval_cases n <;> rfl

theorem encode_swapOf {n : Nat} (h1 : 1 ≤ n) (h : n ≤ 16) : encode (swapOf n) = [BitVec.ofNat 8 (0x8F + n)] := by
  interval_cases n <;> rfl

theorem immWidth_swap {n : Nat} (h1 : 1 ≤ n) (h : n ≤ 16) : immWidth (BitVec.ofNat 8 (0x8F + n)) = 0 := by
  interval_cases n <;> rfl

theorem swapOf_arity {n : Nat} (h1 : 1 ≤ n) (h : n ≤ 16) : arityOf (swapOf n) = .swap n := by
  interval_cases n <;> rfl

theorem exec_swapOf {n : Nat} (h1 : 1 ≤ n) (h : n ≤ 16) (s : State) : exec (swapOf n) s = exchange n s := by
  interval_cases n <;> rfl

/-! ### One-byte instructions -/

/-- Outside the push range the bytes after the opcode byte do not matter (R61). -/
theorem decodeOpcode_rest {op : Byte} (h : ¬ (0x5F ≤ op ∧ op ≤ 0x7F)) (rest : List Byte) :
    decodeOpcode op rest = decodeOpcode op [] := by
  rw [decodeOpcode, decodeOpcode, if_neg h, if_neg h]

/-- An undefined byte selects `undefined`, whatever stands after it (R69, R86). -/
theorem decodeOpcode_undefined {op : Byte} (h : isUndefinedByte op = true) (rest : List Byte) :
    decodeOpcode op rest = .undefined op := by
  have key : ∀ op : Byte, isUndefinedByte op = true →
      ¬ (0x5F ≤ op ∧ op ≤ 0x7F) ∧ decodeOpcode op [] = .undefined op := by decide
  exact (decodeOpcode_rest (key op h).1 rest).trans (key op h).2

theorem immWidth_undefined {op : Byte} (h : isUndefinedByte op = true) : immWidth op = 0 := by
  revert op; decide

/-- The immediate of an instruction fits its bytes. -/
theorem immediate_lt (i : Instr) : i.immediate < 256 ^ i.immBytes := by
  cases i <;> simp only [Instr.immediate, Instr.immBytes, Instr.pushWidth, Option.getD_some, Option.getD_none] <;>
    first
    | (rename_i imm; exact lt_of_lt_of_eq imm.isLt (by norm_num))
    | exact Nat.one_pos

/-- An instruction with an immediate, or PUSH0, is the family's member of its width. -/
theorem eq_pushOf {i : Instr} {n : Nat} (h : i.pushWidth = some n) : n ≤ 32 ∧ i = pushOf n i.immediate := by
  have self : ∀ {w : Nat} (b : BitVec w), b = BitVec.ofNat w b.toNat := fun b => by simp
  cases i <;> simp only [Instr.pushWidth, Option.some.injEq, reduceCtorEq] at h <;> subst h <;>
    first
    | exact ⟨by decide, rfl⟩
    | exact ⟨by decide, congrArg _ (self _)⟩

/-- Every well-formed instruction is a PUSHn, or one byte long and read from its byte whatever stands after it. -/
theorem push_or_oneByte (i : Instr) (hw : i.WellFormed) :
    (∃ n v, n ≤ 32 ∧ v < 256 ^ n ∧ i = pushOf n v) ∨
    (i.pushWidth = none ∧ encode i = [i.opcode] ∧ immWidth i.opcode = 0 ∧ ∀ rest, decodeOpcode i.opcode rest = i) := by
  cases hp : i.pushWidth with
  | some n =>
    obtain ⟨hn, he⟩ := eq_pushOf hp
    have hb : i.immBytes = n := by rw [Instr.immBytes, hp]; rfl
    exact .inl ⟨n, i.immediate, hn, hb ▸ (immediate_lt i), he⟩
  | none =>
    cases i
    case undefined op => exact .inr ⟨rfl, rfl, immWidth_undefined hw, decodeOpcode_undefined hw⟩
    all_goals first
      | (simp [Instr.pushWidth] at hp; done)
      | exact .inr ⟨rfl, rfl, rfl, fun r => (decodeOpcode_rest (by decide) r).trans (by decide +kernel)⟩

end Sys2Proof
end

