-- ==== Sys2Proof/Laws/State.lean ====
section
/-! SUPPORT. One lemma per field per update of the state, each true by rfl, so that no later proof unfolds an update. -/

namespace Sys2Proof.Machine

variable (s : State)

@[simp] theorem State.advance_code (n : Nat) : (s.advance n).code = s.code := rfl
@[simp] theorem State.advance_stack (n : Nat) : (s.advance n).stack = s.stack := rfl
@[simp] theorem State.advance_pc (n : Nat) : (s.advance n).pc = s.pc + 1 + n := rfl
@[simp] theorem State.advance_rs (n : Nat) : (s.advance n).rs = s.rs := rfl
@[simp] theorem State.advance_cause (n : Nat) : (s.advance n).cause = s.cause := rfl
@[simp] theorem State.advance_cfg (n : Nat) : (s.advance n).cfg = s.cfg := rfl

@[simp] theorem State.raise_code (c : Cause) : (s.raise c).code = s.code := rfl
@[simp] theorem State.raise_stack (c : Cause) : (s.raise c).stack = s.stack := rfl
@[simp] theorem State.raise_pc (c : Cause) : (s.raise c).pc = s.pc := rfl
@[simp] theorem State.raise_rs (c : Cause) : (s.raise c).rs = .failed := rfl
@[simp] theorem State.raise_cause (c : Cause) : (s.raise c).cause = c := rfl
@[simp] theorem State.raise_cfg (c : Cause) : (s.raise c).cfg = s.cfg := rfl

@[simp] theorem State.halt_code : (s.halt).code = s.code := rfl
@[simp] theorem State.halt_stack : (s.halt).stack = s.stack := rfl
@[simp] theorem State.halt_pc : (s.halt).pc = s.pc := rfl
@[simp] theorem State.halt_rs : (s.halt).rs = .halted := rfl
@[simp] theorem State.halt_cause : (s.halt).cause = s.cause := rfl
@[simp] theorem State.halt_cfg : (s.halt).cfg = s.cfg := rfl

@[simp] theorem State.setStack_code (S : List Word) : (s.setStack S).code = s.code := rfl
@[simp] theorem State.setStack_stack (S : List Word) : (s.setStack S).stack = S := rfl
@[simp] theorem State.setStack_pc (S : List Word) : (s.setStack S).pc = s.pc := rfl
@[simp] theorem State.setStack_rs (S : List Word) : (s.setStack S).rs = s.rs := rfl
@[simp] theorem State.setStack_cause (S : List Word) : (s.setStack S).cause = s.cause := rfl
@[simp] theorem State.setStack_cfg (S : List Word) : (s.setStack S).cfg = s.cfg := rfl

@[simp] theorem State.start_code (cfg : Config) (code : List Byte) : (State.start cfg code).code = Memory.ofBytes code := rfl
@[simp] theorem State.start_stack (cfg : Config) (code : List Byte) : (State.start cfg code).stack = [] := rfl
@[simp] theorem State.start_pc (cfg : Config) (code : List Byte) : (State.start cfg code).pc = 0 := rfl
@[simp] theorem State.start_rs (cfg : Config) (code : List Byte) : (State.start cfg code).rs = .fetching := rfl
@[simp] theorem State.start_cause (cfg : Config) (code : List Byte) : (State.start cfg code).cause = .none := rfl
@[simp] theorem State.start_cfg (cfg : Config) (code : List Byte) : (State.start cfg code).cfg = cfg := rfl

/-- Reset is the start of an invocation with no code, at the reference parameters. -/
theorem State.reset_eq_start : State.reset = State.start Config.reference [] := rfl

/-- Whether the code is admitted depends on the code buffer and the parameters alone. -/
theorem State.codeAdmitted_congr {s t : State} (hc : t.code = s.code) (hg : t.cfg = s.cfg) :
    t.codeAdmitted = s.codeAdmitted := by
  unfold State.codeAdmitted; rw [hc, hg]

end Sys2Proof.Machine
end

