-- ==== Sys2Proof/Laws/Ops.lean ====
section
/-! SUPPORT. What each shared operation can do, said once: dispatch, the operand forms and the stack transformers. -/

namespace Sys2Proof.Machine

/-! ### Dispatch -/

theorem dispatch_underflow {n : Nat} {ar : Arity} {c : List Word → List Word} {s : State}
    (h : s.stack.length < ar.need) : s.dispatch n ar c = .next ((s.advance n).raise .stackUnderflow) := by
  simp [State.dispatch, h]

theorem dispatch_overflow {n : Nat} {ar : Arity} {c : List Word → List Word} {s : State}
    (h : ar.need ≤ s.stack.length) (hf : fits s.cfg.stackCapacity (ar.depthAfter s.stack.length) = false) :
    s.dispatch n ar c = .next ((s.advance n).raise .stackOverflow) := by
  simp [State.dispatch, Nat.not_lt.2 h, hf]

theorem dispatch_completes {n : Nat} {ar : Arity} {c : List Word → List Word} {s : State}
    (h : ar.need ≤ s.stack.length) (hf : fits s.cfg.stackCapacity (ar.depthAfter s.stack.length) = true) :
    s.dispatch n ar c = .next ((s.advance n).setStack (c s.stack)) := by
  simp [State.dispatch, Nat.not_lt.2 h, hf]

/-- Everything dispatch can answer: an underflow, an overflow or the completed instruction, each a next state. -/
theorem dispatch_cases {n : Nat} {ar : Arity} {c : List Word → List Word} {s : State} {o : StepOutcome}
    (h : s.dispatch n ar c = o) :
    (s.stack.length < ar.need ∧ o = .next ((s.advance n).raise .stackUnderflow)) ∨
    (ar.need ≤ s.stack.length ∧ fits s.cfg.stackCapacity (ar.depthAfter s.stack.length) = false ∧
      o = .next ((s.advance n).raise .stackOverflow)) ∨
    (ar.need ≤ s.stack.length ∧ fits s.cfg.stackCapacity (ar.depthAfter s.stack.length) = true ∧
      o = .next ((s.advance n).setStack (c s.stack))) := by
  by_cases hn : s.stack.length < ar.need
  · exact .inl ⟨hn, by rw [← h, dispatch_underflow hn]⟩
  · have hn' := Nat.not_lt.1 hn
    cases hf : fits s.cfg.stackCapacity (ar.depthAfter s.stack.length) with
    | false => exact .inr (.inl ⟨hn', rfl, by rw [← h, dispatch_overflow hn' hf]⟩)
    | true => exact .inr (.inr ⟨hn', rfl, by rw [← h, dispatch_completes hn' hf]⟩)

@[simp] theorem fits_unbounded (d : Nat) : fits .unbounded d = true := rfl

@[simp] theorem fits_atMost {c d : Nat} : fits (.atMost c) d = true ↔ d ≤ c := decide_eq_true_iff

@[simp] theorem fits_atMost_eq_false {c d : Nat} : fits (.atMost c) d = false ↔ c < d :=
  decide_eq_false_iff_not.trans Nat.not_le

/-- A smaller depth fits wherever a larger one does. -/
theorem fits_of_le {c : Capacity} {d d' : Nat} (h : d' ≤ d) (hf : fits c d = true) : fits c d' = true := by
  cases c with
  | unbounded => rfl
  | atMost k => simp only [fits, decide_eq_true_eq] at *; omega

/-! ### Operand forms -/

theorem unary_completes {f : Word → Word} {s : State} {a : Word} {S : List Word} (hs : s.stack = a :: S)
    (hf : fits s.cfg.stackCapacity s.stack.length = true) :
    unary f s = .next ((s.advance 0).setStack (f a :: S)) := by
  rw [unary, dispatch_completes (by simp [hs, Arity.unary])
    (fits_of_le (by simp [hs, Arity.unary, Arity.depthAfter]) hf), hs]
  rfl

theorem binary_completes {f : Word → Word → Word} {s : State} {a b : Word} {S : List Word} (hs : s.stack = a :: b :: S)
    (hf : fits s.cfg.stackCapacity s.stack.length = true) :
    binary f s = .next ((s.advance 0).setStack (f a b :: S)) := by
  rw [binary, dispatch_completes (by simp [hs, Arity.binary])
    (fits_of_le (by simp [hs, Arity.binary, Arity.depthAfter]) hf), hs]
  rfl

theorem ternary_completes {f : Word → Word → Word → Word} {s : State} {a b c : Word} {S : List Word}
    (hs : s.stack = a :: b :: c :: S) (hf : fits s.cfg.stackCapacity s.stack.length = true) :
    ternary f s = .next ((s.advance 0).setStack (f a b c :: S)) := by
  rw [ternary, dispatch_completes (by simp [hs, Arity.ternary])
    (fits_of_le (by simp [hs, Arity.ternary, Arity.depthAfter]) hf), hs]
  rfl

/-! ### Stack transformers: what they leave alone, and the depth they leave -/

/-- A transformer that reads and writes only the top `ar.need` elements and changes the depth as the arity row says. -/
structure Local (ar : Arity) (c : List Word → List Word) : Prop where
  append : ∀ top rest : List Word, ar.need ≤ top.length → c (top ++ rest) = c top ++ rest
  depth  : ∀ S : List Word, ar.need ≤ S.length → (c S).length = ar.depthAfter S.length

theorem unaryStack_local (f : Word → Word) : Local .unary (unaryStack f) where
  append := by
    rintro (_ | ⟨a, S⟩) rest h
    · simp [Arity.unary] at h
    · rfl
  depth := by
    rintro (_ | ⟨a, S⟩) h
    · simp [Arity.unary] at h
    · simp [unaryStack, Arity.unary, Arity.depthAfter]

theorem binaryStack_local (f : Word → Word → Word) : Local .binary (binaryStack f) where
  append := by
    rintro (_ | ⟨a, _ | ⟨b, S⟩⟩) rest h
    · simp [Arity.binary] at h
    · simp [Arity.binary] at h
    · rfl
  depth := by
    rintro (_ | ⟨a, _ | ⟨b, S⟩⟩) h
    · simp [Arity.binary] at h
    · simp [Arity.binary] at h
    · simp [binaryStack, Arity.binary, Arity.depthAfter]

theorem ternaryStack_local (f : Word → Word → Word → Word) : Local .ternary (ternaryStack f) where
  append := by
    rintro (_ | ⟨a, _ | ⟨b, _ | ⟨c, S⟩⟩⟩) rest h
    · simp [Arity.ternary] at h
    · simp [Arity.ternary] at h
    · simp [Arity.ternary] at h
    · rfl
  depth := by
    rintro (_ | ⟨a, _ | ⟨b, _ | ⟨c, S⟩⟩⟩) h
    · simp [Arity.ternary] at h
    · simp [Arity.ternary] at h
    · simp [Arity.ternary] at h
    · simp [ternaryStack, Arity.ternary, Arity.depthAfter]

theorem popStack_local : Local .pop popStack where
  append := by
    rintro (_ | ⟨a, S⟩) rest h
    · simp [Arity.pop] at h
    · rfl
  depth := by
    rintro (_ | ⟨a, S⟩) h
    · simp [Arity.pop] at h
    · simp [popStack, Arity.pop, Arity.depthAfter]

theorem pushStack_local (v : Word) : Local .push (fun S => v :: S) where
  append := fun _ _ _ => rfl
  depth := fun _ _ => by simp [Arity.push, Arity.depthAfter]

theorem dupStack_local {n : Nat} (hn : 1 ≤ n) : Local (.duplicate n) (dupStack n) where
  append := by
    intro top rest h
    simp only [Arity.duplicate] at h
    have hlt : n - 1 < top.length := by omega
    simp [dupStack, List.getElem?_append_left hlt, List.getElem?_eq_getElem hlt]
  depth := by
    intro S h
    simp only [Arity.duplicate] at h
    have hlt : n - 1 < S.length := by omega
    simp [dupStack, List.getElem?_eq_getElem hlt, Arity.duplicate, Arity.depthAfter]

theorem swapStack_local (n : Nat) : Local (.swap n) (swapStack n) where
  append := by
    intro top rest h
    simp only [Arity.swap] at h
    have h0 : 0 < top.length := by omega
    have hlt : n < top.length := by omega
    simp only [swapStack, List.getElem?_append_left h0, List.getElem?_append_left hlt,
      List.getElem?_eq_getElem h0, List.getElem?_eq_getElem hlt]
    rw [List.set_append_left _ _ h0, List.set_append_left _ _ (by simpa using hlt)]
  depth := by
    intro S h
    simp only [Arity.swap] at h
    have h0 : 0 < S.length := by omega
    have hlt : n < S.length := by omega
    simp [swapStack, List.getElem?_eq_getElem h0, List.getElem?_eq_getElem hlt, Arity.swap, Arity.depthAfter]

end Sys2Proof.Machine
end

