-- ==== Sys2Proof/Laws/Exec.lean ====
section
/-! SUPPORT. The one form every instruction but STOP and the undefined bytes has, said once: the truncation test, then
dispatch with the instruction's row of the arity table and its stack transformer. Later proofs cite this and
`computeOf_local` instead of unfolding the 93 meanings. -/

namespace Sys2Proof.Machine

/-- The `compute(op, imm, S)` of R80 and R88, by instruction. -/
def computeOf (cfg : Config) : Instr → List Word → List Word
  | .undefined _ | .stop => id
  | .add => binaryStack addWord
  | .mul => binaryStack mulWord
  | .sub => binaryStack subWord
  | .div => binaryStack divWord
  | .sdiv => binaryStack sdivWord
  | .mod => binaryStack modWord
  | .smod => binaryStack smodWord
  | .addmod => ternaryStack addmodWord
  | .mulmod => ternaryStack mulmodWord
  | .exp => binaryStack expWord
  | .signextend => binaryStack (signExtend cfg.signExtendMode)
  | .lt => binaryStack ltWord
  | .gt => binaryStack gtWord
  | .slt => binaryStack sltWord
  | .sgt => binaryStack sgtWord
  | .eq => binaryStack eqWord
  | .iszero => unaryStack isZeroWord
  | .and => binaryStack andWord
  | .or => binaryStack orWord
  | .xor => binaryStack xorWord
  | .not => unaryStack notWord
  | .byte => binaryStack byteWord
  | .shl => binaryStack shlWord
  | .shr => binaryStack shrWord
  | .sar => binaryStack sarWord
  | .pop => popStack
  | .push0 => (BitVec.ofNat wordBits 0 :: ·)
  | .push1 imm => (BitVec.ofNat wordBits imm.toNat :: ·)
  | .push2 imm => (BitVec.ofNat wordBits imm.toNat :: ·)
  | .push3 imm => (BitVec.ofNat wordBits imm.toNat :: ·)
  | .push4 imm => (BitVec.ofNat wordBits imm.toNat :: ·)
  | .push5 imm => (BitVec.ofNat wordBits imm.toNat :: ·)
  | .push6 imm => (BitVec.ofNat wordBits imm.toNat :: ·)
  | .push7 imm => (BitVec.ofNat wordBits imm.toNat :: ·)
  | .push8 imm => (BitVec.ofNat wordBits imm.toNat :: ·)
  | .push9 imm => (BitVec.ofNat wordBits imm.toNat :: ·)
  | .push10 imm => (BitVec.ofNat wordBits imm.toNat :: ·)
  | .push11 imm => (BitVec.ofNat wordBits imm.toNat :: ·)
  | .push12 imm => (BitVec.ofNat wordBits imm.toNat :: ·)
  | .push13 imm => (BitVec.ofNat wordBits imm.toNat :: ·)
  | .push14 imm => (BitVec.ofNat wordBits imm.toNat :: ·)
  | .push15 imm => (BitVec.ofNat wordBits imm.toNat :: ·)
  | .push16 imm => (BitVec.ofNat wordBits imm.toNat :: ·)
  | .push17 imm => (BitVec.ofNat wordBits imm.toNat :: ·)
  | .push18 imm => (BitVec.ofNat wordBits imm.toNat :: ·)
  | .push19 imm => (BitVec.ofNat wordBits imm.toNat :: ·)
  | .push20 imm => (BitVec.ofNat wordBits imm.toNat :: ·)
  | .push21 imm => (BitVec.ofNat wordBits imm.toNat :: ·)
  | .push22 imm => (BitVec.ofNat wordBits imm.toNat :: ·)
  | .push23 imm => (BitVec.ofNat wordBits imm.toNat :: ·)
  | .push24 imm => (BitVec.ofNat wordBits imm.toNat :: ·)
  | .push25 imm => (BitVec.ofNat wordBits imm.toNat :: ·)
  | .push26 imm => (BitVec.ofNat wordBits imm.toNat :: ·)
  | .push27 imm => (BitVec.ofNat wordBits imm.toNat :: ·)
  | .push28 imm => (BitVec.ofNat wordBits imm.toNat :: ·)
  | .push29 imm => (BitVec.ofNat wordBits imm.toNat :: ·)
  | .push30 imm => (BitVec.ofNat wordBits imm.toNat :: ·)
  | .push31 imm => (BitVec.ofNat wordBits imm.toNat :: ·)
  | .push32 imm => (BitVec.ofNat wordBits imm.toNat :: ·)
  | .dup1 => dupStack 1
  | .dup2 => dupStack 2
  | .dup3 => dupStack 3
  | .dup4 => dupStack 4
  | .dup5 => dupStack 5
  | .dup6 => dupStack 6
  | .dup7 => dupStack 7
  | .dup8 => dupStack 8
  | .dup9 => dupStack 9
  | .dup10 => dupStack 10
  | .dup11 => dupStack 11
  | .dup12 => dupStack 12
  | .dup13 => dupStack 13
  | .dup14 => dupStack 14
  | .dup15 => dupStack 15
  | .dup16 => dupStack 16
  | .swap1 => swapStack 1
  | .swap2 => swapStack 2
  | .swap3 => swapStack 3
  | .swap4 => swapStack 4
  | .swap5 => swapStack 5
  | .swap6 => swapStack 6
  | .swap7 => swapStack 7
  | .swap8 => swapStack 8
  | .swap9 => swapStack 9
  | .swap10 => swapStack 10
  | .swap11 => swapStack 11
  | .swap12 => swapStack 12
  | .swap13 => swapStack 13
  | .swap14 => swapStack 14
  | .swap15 => swapStack 15
  | .swap16 => swapStack 16

theorem exec_stop (s : State) : exec .stop s = .next s.halt := rfl

theorem exec_undefined (op : Byte) (s : State) :
    (s.cfg.unknownOpcodePolicy = .skip ∧ exec (.undefined op) s = .next (s.advance 0)) ∨
    (s.cfg.unknownOpcodePolicy = .fault ∧ exec (.undefined op) s = .next ((s.advance 0).raise .unknownOpcode)) := by
  cases h : s.cfg.unknownOpcodePolicy <;> simp [exec, execUndefined, h]

/-- Every other instruction: truncation first (R80, R309), then dispatch. -/
theorem exec_eq_dispatch (i : Instr) (s : State) (hs : i ≠ .stop) (hu : ∀ op, i ≠ .undefined op) :
    exec i s =
      if s.truncated i.immBytes ∧ s.cfg.truncatedPushPolicy = .fault then .next (s.raise .truncatedImmediate)
      else s.dispatch i.immBytes (arityOf i) (computeOf s.cfg i) := by
  cases i
  case stop => exact absurd rfl hs
  case undefined op => exact absurd rfl (hu op)
  all_goals rfl

/-- Every instruction's `compute` reads and writes only its operands and keeps to the arity table (R84, R88). -/
theorem computeOf_local (cfg : Config) (i : Instr) : Local (arityOf i) (computeOf cfg i) := by
  cases i <;>
    first
    | exact unaryStack_local _
    | exact binaryStack_local _
    | exact ternaryStack_local _
    | exact popStack_local
    | exact pushStack_local _
    | exact dupStack_local (by decide)
    | exact swapStack_local _
    | exact ⟨fun _ _ _ => rfl, fun _ _ => rfl⟩

/-- Everything `exec` can answer: always a next state, in one of six ways, the order of the tests being that of R80. -/
theorem exec_cases {i : Instr} {s : State} {o : StepOutcome} (h : exec i s = o) :
    (i = .stop ∧ o = .next s.halt) ∨
    (∃ op, i = .undefined op ∧ s.cfg.unknownOpcodePolicy = .skip ∧ o = .next (s.advance 0)) ∨
    (∃ op, i = .undefined op ∧ s.cfg.unknownOpcodePolicy = .fault ∧ o = .next ((s.advance 0).raise .unknownOpcode)) ∨
    (s.truncated i.immBytes ∧ s.cfg.truncatedPushPolicy = .fault ∧ o = .next (s.raise .truncatedImmediate)) ∨
    (s.stack.length < (arityOf i).need ∧ o = .next ((s.advance i.immBytes).raise .stackUnderflow)) ∨
    ((arityOf i).need ≤ s.stack.length ∧
      fits s.cfg.stackCapacity ((arityOf i).depthAfter s.stack.length) = false ∧
      o = .next ((s.advance i.immBytes).raise .stackOverflow)) ∨
    ((arityOf i).need ≤ s.stack.length ∧
      fits s.cfg.stackCapacity ((arityOf i).depthAfter s.stack.length) = true ∧
      o = .next ((s.advance i.immBytes).setStack (computeOf s.cfg i s.stack))) := by
  by_cases hs : i = .stop
  · subst hs; exact .inl ⟨rfl, h.symm.trans (exec_stop s)⟩
  by_cases hu : ∃ op, i = .undefined op
  · obtain ⟨op, rfl⟩ := hu
    rcases exec_undefined op s with ⟨hp, he⟩ | ⟨hp, he⟩
    · exact .inr (.inl ⟨op, rfl, hp, h.symm.trans he⟩)
    · exact .inr (.inr (.inl ⟨op, rfl, hp, h.symm.trans he⟩))
  have he := exec_eq_dispatch i s hs (fun op ho => hu ⟨op, ho⟩)
  rw [h] at he
  split at he
  · next ht => exact .inr (.inr (.inr (.inl ⟨ht.1, ht.2, he⟩)))
  · exact .inr (.inr (.inr (.inr (dispatch_cases he.symm))))

/-- No instruction stops the machine: every meaning answers a next state. -/
theorem exec_answers_next (i : Instr) (s : State) : ∃ t, exec i s = .next t := by
  rcases exec_cases (rfl : exec i s = exec i s) with
    ⟨-, h⟩ | ⟨_, -, -, h⟩ | ⟨_, -, -, h⟩ | ⟨-, -, h⟩ | ⟨-, h⟩ | ⟨-, -, h⟩ | ⟨-, -, h⟩ <;> exact ⟨_, h⟩

end Sys2Proof.Machine
end

