-- ==== Sys2Proof/Laws/Memory.lean ====
section
/-! SUPPORT. The laws of the code buffer: a byte reads back as it was laid out, every other offset is left alone, and every
operation keeps the canonical form. -/

namespace Sys2Proof.Machine

/-! ### Reading back -/

theorem lookupCell_insertCell_same (a : Nat) (b : Byte) {len lo : Nat} (cs : List Host.Cell)
    (h : cellsWf len lo cs = true) : lookupCell a (insertCell a b cs) = b := by
  induction cs generalizing lo with
  | nil => by_cases hb : b = Memory.unlisted <;> simp [insertCell, lookupCell, hb]
  | cons x cs ih =>
    obtain ⟨k, c⟩ := x
    simp only [cellsWf, Bool.and_eq_true, decide_eq_true_eq] at h
    have above : ∀ (l : Nat) (ds : List Host.Cell), cellsWf len l ds = true → a < l →
        lookupCell a ds = Memory.unlisted := by
      intro l ds
      induction ds generalizing l with
      | nil => intros; rfl
      | cons y ds ih' =>
        obtain ⟨k', c'⟩ := y
        intro hw hl
        simp only [cellsWf, Bool.and_eq_true, decide_eq_true_eq] at hw
        have hk : k' ≠ a := by omega
        simp [lookupCell, hk, ih' _ hw.2 (by omega)]
    unfold insertCell
    split
    · next hk => simp [lookupCell, Nat.ne_of_lt hk, ih h.2]
    · split
      · next hk =>
        split
        · next hb => rw [above _ _ h.2 (by omega), hb]
        · simp [lookupCell]
      · next h1 h2 =>
        split
        · next hb => simp [lookupCell, h2, above _ _ h.2 (by omega), hb]
        · simp [lookupCell]

theorem lookupCell_insertCell_other {a a' : Nat} (b : Byte) (cs : List Host.Cell) (ne : a' ≠ a) :
    lookupCell a' (insertCell a b cs) = lookupCell a' cs := by
  induction cs with
  | nil => by_cases hb : b = Memory.unlisted <;> simp [insertCell, lookupCell, hb, ne.symm]
  | cons x cs ih =>
    obtain ⟨k, c⟩ := x
    unfold insertCell
    split
    · simp [lookupCell, ih]
    · split
      · next hk => subst hk; split <;> simp [lookupCell, ne.symm]
      · split <;> simp [lookupCell, ne.symm]

/-! ### The canonical form -/

theorem cellsWf_mono {len len' lo lo' : Nat} {cs : List Host.Cell} (h : cellsWf len lo cs = true)
    (hl : len ≤ len') (hlo : lo' ≤ lo) : cellsWf len' lo' cs = true := by
  induction cs generalizing lo lo' with
  | nil => rfl
  | cons x cs ih =>
    obtain ⟨k, c⟩ := x
    simp only [cellsWf, Bool.and_eq_true, decide_eq_true_eq] at h ⊢
    exact ⟨⟨⟨by omega, by omega⟩, h.1.2⟩, ih h.2 le_rfl⟩

theorem cellsWf_insertCell {len lo a : Nat} (b : Byte) {cs : List Host.Cell} (h : cellsWf len lo cs = true)
    (hlo : lo ≤ a) (ha : a < len) : cellsWf len lo (insertCell a b cs) = true := by
  induction cs generalizing lo with
  | nil =>
    by_cases hb : b = Memory.unlisted <;> simp [insertCell, cellsWf, hb, hlo, ha]
  | cons x cs ih =>
    obtain ⟨k, c⟩ := x
    have h' := h
    simp only [cellsWf, Bool.and_eq_true, decide_eq_true_eq] at h'
    unfold insertCell
    split
    · next hk =>
      simp only [cellsWf, Bool.and_eq_true, decide_eq_true_eq]
      exact ⟨h'.1, ih h'.2 (by omega)⟩
    · split
      · next hk =>
        subst hk
        split
        · exact cellsWf_mono h'.2 le_rfl (by omega)
        · next hb => simp [cellsWf, hlo, ha, hb, h'.2]
      · next h1 h2 =>
        split
        · exact h
        · next hb =>
          have hk : a + 1 ≤ k := by omega
          have hc : c ≠ Memory.unlisted := by simpa using h'.1.2
          simp [cellsWf, hlo, ha, hb, hk, h'.1.1.2, hc, h'.2]

/-- Laying out a byte keeps the canonical form. -/
theorem Memory.write_wf {m : Memory} (a : Nat) (b : Byte) (h : m.wf = true) : (m.write a b).wf = true :=
  cellsWf_insertCell b (cellsWf_mono h (Nat.le_max_left _ _) le_rfl) (Nat.zero_le _)
    (Nat.lt_of_lt_of_le (Nat.lt_succ_self a) (Nat.le_max_right _ _))

/-- Laying out a byte sequence keeps the canonical form. -/
theorem Memory.place_wf {m : Memory} (a : Nat) (bs : List Byte) (h : m.wf = true) : (m.place a bs).wf = true := by
  induction bs generalizing m a with
  | nil => exact h
  | cons b bs ih => exact ih _ (Memory.write_wf a b h)

theorem Memory.empty_wf : Memory.empty.wf = true := rfl

/-- The caller's code buffer is in canonical form. -/
theorem Memory.ofBytes_wf (bs : List Byte) : (Memory.ofBytes bs).wf = true := Memory.place_wf 0 bs Memory.empty_wf

/-- The reset state's code buffer is in canonical form. -/
theorem State.reset_code_wf : State.reset.code.wf = true := rfl

/-! ### Reading and writing -/

theorem Memory.read_write_same {m : Memory} (a : Nat) (b : Byte) (h : m.wf = true) :
    (m.write a b).read a = some b := by
  have ha : a < max m.len (a + 1) := by omega
  simp [Memory.read, Memory.write, ha, lookupCell_insertCell_same a b m.cells h]

theorem Memory.read_write_other {m : Memory} {a a' : Nat} (b : Byte) (ne : a' ≠ a) (ha : a' < m.len) :
    (m.write a b).read a' = m.read a' := by
  have h' : a' < max m.len (a + 1) := by omega
  simp [Memory.read, Memory.write, ha, lookupCell_insertCell_other b m.cells ne]

/-- An offset at or beyond L has no byte, and only such an offset (R40, R41). -/
theorem Memory.read_eq_none {m : Memory} {a : Nat} : m.read a = none ↔ m.len ≤ a := by
  simp [Memory.read]

/-- The bytes from `a` on: how many there are. -/
theorem Memory.window_length (m : Memory) (a n : Nat) : (m.window a n).length = min n (m.len - a) := by
  induction n generalizing a with
  | zero => simp [Memory.window]
  | succ n ih =>
    unfold Memory.window Memory.read
    by_cases h : a < m.len
    · simp only [h, if_true, List.length_cons, ih]; omega
    · simp only [h, if_false, List.length_nil]; omega

/-- The bytes from `a` on, one by one. -/
theorem Memory.window_getElem? (m : Memory) (a n k : Nat) :
    (m.window a n)[k]? = if k < n then m.read (a + k) else none := by
  induction n generalizing a k with
  | zero => simp [Memory.window]
  | succ n ih =>
    unfold Memory.window
    split
    · next h =>
      have hk : m.read (a + k) = none := Memory.read_eq_none.2 (by have := Memory.read_eq_none.1 h; omega)
      simp [hk]
    · next b h =>
      cases k with
      | zero => simp [h]
      | succ k => simp [ih, Nat.add_right_comm, Nat.add_assoc]

/-- The fetch finds no byte exactly at or past the end of the code. -/
theorem State.fetchBytes_eq_nil {s : State} : s.fetchBytes = [] ↔ s.code.len ≤ s.pc := by
  rw [← List.length_eq_zero_iff, State.fetchBytes, Memory.window_length]; simp only [maxInstrBytes, maxImmBytes]; omega

/-- The first byte the fetch finds is the opcode byte at pc. -/
theorem State.fetchBytes_head {s : State} {op : Byte} {rest : List Byte} (h : s.fetchBytes = op :: rest) :
    s.code.read s.pc = some op := by
  have := Memory.window_getElem? s.code s.pc maxInstrBytes 0
  rw [← State.fetchBytes, h] at this
  simpa [maxInstrBytes, maxImmBytes] using this.symm

end Sys2Proof.Machine
end

