-- ==== Sys2Proof/Laws/PerInstr.lean ====
section
/-! SUPPORT. Facts about every instruction as syntax, one lemma per constructor: its opcode byte alone tells how many bytes
follow it (spec/30_encoding.md rules R60 to R62), and that many follow. -/

namespace Sys2Proof.Laws.EncodedForm

/-- The opcode byte of a well-formed instruction determines its length, and its encoding has that length. -/
def Statement (i : Instr) : Prop :=
  i.WellFormed → immWidth i.opcode = i.immBytes ∧ i.immBytes ≤ maxImmBytes ∧
    (encode i).length = 1 + i.immBytes ∧ i.immediate < 256 ^ i.immBytes

/-- All but the first of the four come down to two facts about the constructor. -/
theorem of_width {i : Instr} (hw : i.WellFormed → immWidth i.opcode = i.immBytes) (hb : i.immBytes ≤ maxImmBytes)
    (hv : i.immediate < 256 ^ i.immBytes) : Statement i :=
  fun h => ⟨hw h, hb, by simp [encode, Nat.add_comm], hv⟩

theorem stop : Statement .stop := of_width (fun _ => rfl) (by decide) (by decide)
theorem add : Statement .add := of_width (fun _ => rfl) (by decide) (by decide)
theorem mul : Statement .mul := of_width (fun _ => rfl) (by decide) (by decide)
theorem sub : Statement .sub := of_width (fun _ => rfl) (by decide) (by decide)
theorem div : Statement .div := of_width (fun _ => rfl) (by decide) (by decide)
theorem sdiv : Statement .sdiv := of_width (fun _ => rfl) (by decide) (by decide)
theorem mod : Statement .mod := of_width (fun _ => rfl) (by decide) (by decide)
theorem smod : Statement .smod := of_width (fun _ => rfl) (by decide) (by decide)
theorem addmod : Statement .addmod := of_width (fun _ => rfl) (by decide) (by decide)
theorem mulmod : Statement .mulmod := of_width (fun _ => rfl) (by decide) (by decide)
theorem exp : Statement .exp := of_width (fun _ => rfl) (by decide) (by decide)
theorem signextend : Statement .signextend := of_width (fun _ => rfl) (by decide) (by decide)
theorem lt : Statement .lt := of_width (fun _ => rfl) (by decide) (by decide)
theorem gt : Statement .gt := of_width (fun _ => rfl) (by decide) (by decide)
theorem slt : Statement .slt := of_width (fun _ => rfl) (by decide) (by decide)
theorem sgt : Statement .sgt := of_width (fun _ => rfl) (by decide) (by decide)
theorem eq : Statement .eq := of_width (fun _ => rfl) (by decide) (by decide)
theorem iszero : Statement .iszero := of_width (fun _ => rfl) (by decide) (by decide)
theorem and : Statement .and := of_width (fun _ => rfl) (by decide) (by decide)
theorem or : Statement .or := of_width (fun _ => rfl) (by decide) (by decide)
theorem xor : Statement .xor := of_width (fun _ => rfl) (by decide) (by decide)
theorem not : Statement .not := of_width (fun _ => rfl) (by decide) (by decide)
theorem byte : Statement .byte := of_width (fun _ => rfl) (by decide) (by decide)
theorem shl : Statement .shl := of_width (fun _ => rfl) (by decide) (by decide)
theorem shr : Statement .shr := of_width (fun _ => rfl) (by decide) (by decide)
theorem sar : Statement .sar := of_width (fun _ => rfl) (by decide) (by decide)
theorem pop : Statement .pop := of_width (fun _ => rfl) (by decide) (by decide)
theorem push0 : Statement .push0 := of_width (fun _ => rfl) (by decide) (by decide)
theorem push1 (imm : BitVec 8) : Statement (.push1 imm) := of_width (fun _ => rfl) (Nat.le_of_ble_eq_true rfl) imm.isLt
theorem push2 (imm : BitVec 16) : Statement (.push2 imm) := of_width (fun _ => rfl) (Nat.le_of_ble_eq_true rfl) imm.isLt
theorem push3 (imm : BitVec 24) : Statement (.push3 imm) := of_width (fun _ => rfl) (Nat.le_of_ble_eq_true rfl) imm.isLt
theorem push4 (imm : BitVec 32) : Statement (.push4 imm) := of_width (fun _ => rfl) (Nat.le_of_ble_eq_true rfl) imm.isLt
theorem push5 (imm : BitVec 40) : Statement (.push5 imm) := of_width (fun _ => rfl) (Nat.le_of_ble_eq_true rfl) imm.isLt
theorem push6 (imm : BitVec 48) : Statement (.push6 imm) := of_width (fun _ => rfl) (Nat.le_of_ble_eq_true rfl) imm.isLt
theorem push7 (imm : BitVec 56) : Statement (.push7 imm) := of_width (fun _ => rfl) (Nat.le_of_ble_eq_true rfl) imm.isLt
theorem push8 (imm : BitVec 64) : Statement (.push8 imm) := of_width (fun _ => rfl) (Nat.le_of_ble_eq_true rfl) imm.isLt
theorem push9 (imm : BitVec 72) : Statement (.push9 imm) := of_width (fun _ => rfl) (Nat.le_of_ble_eq_true rfl) imm.isLt
theorem push10 (imm : BitVec 80) : Statement (.push10 imm) := of_width (fun _ => rfl) (Nat.le_of_ble_eq_true rfl) imm.isLt
theorem push11 (imm : BitVec 88) : Statement (.push11 imm) := of_width (fun _ => rfl) (Nat.le_of_ble_eq_true rfl) imm.isLt
theorem push12 (imm : BitVec 96) : Statement (.push12 imm) := of_width (fun _ => rfl) (Nat.le_of_ble_eq_true rfl) imm.isLt
theorem push13 (imm : BitVec 104) : Statement (.push13 imm) := of_width (fun _ => rfl) (Nat.le_of_ble_eq_true rfl) imm.isLt
theorem push14 (imm : BitVec 112) : Statement (.push14 imm) := of_width (fun _ => rfl) (Nat.le_of_ble_eq_true rfl) imm.isLt
theorem push15 (imm : BitVec 120) : Statement (.push15 imm) := of_width (fun _ => rfl) (Nat.le_of_ble_eq_true rfl) imm.isLt
theorem push16 (imm : BitVec 128) : Statement (.push16 imm) := of_width (fun _ => rfl) (Nat.le_of_ble_eq_true rfl) imm.isLt
theorem push17 (imm : BitVec 136) : Statement (.push17 imm) := of_width (fun _ => rfl) (Nat.le_of_ble_eq_true rfl) imm.isLt
theorem push18 (imm : BitVec 144) : Statement (.push18 imm) := of_width (fun _ => rfl) (Nat.le_of_ble_eq_true rfl) imm.isLt
theorem push19 (imm : BitVec 152) : Statement (.push19 imm) := of_width (fun _ => rfl) (Nat.le_of_ble_eq_true rfl) imm.isLt
theorem push20 (imm : BitVec 160) : Statement (.push20 imm) := of_width (fun _ => rfl) (Nat.le_of_ble_eq_true rfl) imm.isLt
theorem push21 (imm : BitVec 168) : Statement (.push21 imm) := of_width (fun _ => rfl) (Nat.le_of_ble_eq_true rfl) imm.isLt
theorem push22 (imm : BitVec 176) : Statement (.push22 imm) := of_width (fun _ => rfl) (Nat.le_of_ble_eq_true rfl) imm.isLt
theorem push23 (imm : BitVec 184) : Statement (.push23 imm) := of_width (fun _ => rfl) (Nat.le_of_ble_eq_true rfl) imm.isLt
theorem push24 (imm : BitVec 192) : Statement (.push24 imm) := of_width (fun _ => rfl) (Nat.le_of_ble_eq_true rfl) imm.isLt
theorem push25 (imm : BitVec 200) : Statement (.push25 imm) := of_width (fun _ => rfl) (Nat.le_of_ble_eq_true rfl) imm.isLt
theorem push26 (imm : BitVec 208) : Statement (.push26 imm) := of_width (fun _ => rfl) (Nat.le_of_ble_eq_true rfl) imm.isLt
theorem push27 (imm : BitVec 216) : Statement (.push27 imm) := of_width (fun _ => rfl) (Nat.le_of_ble_eq_true rfl) imm.isLt
theorem push28 (imm : BitVec 224) : Statement (.push28 imm) := of_width (fun _ => rfl) (Nat.le_of_ble_eq_true rfl) imm.isLt
theorem push29 (imm : BitVec 232) : Statement (.push29 imm) := of_width (fun _ => rfl) (Nat.le_of_ble_eq_true rfl) imm.isLt
theorem push30 (imm : BitVec 240) : Statement (.push30 imm) := of_width (fun _ => rfl) (Nat.le_of_ble_eq_true rfl) imm.isLt
theorem push31 (imm : BitVec 248) : Statement (.push31 imm) := of_width (fun _ => rfl) (Nat.le_of_ble_eq_true rfl) imm.isLt
theorem push32 (imm : BitVec 256) : Statement (.push32 imm) := of_width (fun _ => rfl) (Nat.le_of_ble_eq_true rfl) imm.isLt
theorem dup1 : Statement .dup1 := of_width (fun _ => rfl) (by decide) (by decide)
theorem dup2 : Statement .dup2 := of_width (fun _ => rfl) (by decide) (by decide)
theorem dup3 : Statement .dup3 := of_width (fun _ => rfl) (by decide) (by decide)
theorem dup4 : Statement .dup4 := of_width (fun _ => rfl) (by decide) (by decide)
theorem dup5 : Statement .dup5 := of_width (fun _ => rfl) (by decide) (by decide)
theorem dup6 : Statement .dup6 := of_width (fun _ => rfl) (by decide) (by decide)
theorem dup7 : Statement .dup7 := of_width (fun _ => rfl) (by decide) (by decide)
theorem dup8 : Statement .dup8 := of_width (fun _ => rfl) (by decide) (by decide)
theorem dup9 : Statement .dup9 := of_width (fun _ => rfl) (by decide) (by decide)
theorem dup10 : Statement .dup10 := of_width (fun _ => rfl) (by decide) (by decide)
theorem dup11 : Statement .dup11 := of_width (fun _ => rfl) (by decide) (by decide)
theorem dup12 : Statement .dup12 := of_width (fun _ => rfl) (by decide) (by decide)
theorem dup13 : Statement .dup13 := of_width (fun _ => rfl) (by decide) (by decide)
theorem dup14 : Statement .dup14 := of_width (fun _ => rfl) (by decide) (by decide)
theorem dup15 : Statement .dup15 := of_width (fun _ => rfl) (by decide) (by decide)
theorem dup16 : Statement .dup16 := of_width (fun _ => rfl) (by decide) (by decide)
theorem swap1 : Statement .swap1 := of_width (fun _ => rfl) (by decide) (by decide)
theorem swap2 : Statement .swap2 := of_width (fun _ => rfl) (by decide) (by decide)
theorem swap3 : Statement .swap3 := of_width (fun _ => rfl) (by decide) (by decide)
theorem swap4 : Statement .swap4 := of_width (fun _ => rfl) (by decide) (by decide)
theorem swap5 : Statement .swap5 := of_width (fun _ => rfl) (by decide) (by decide)
theorem swap6 : Statement .swap6 := of_width (fun _ => rfl) (by decide) (by decide)
theorem swap7 : Statement .swap7 := of_width (fun _ => rfl) (by decide) (by decide)
theorem swap8 : Statement .swap8 := of_width (fun _ => rfl) (by decide) (by decide)
theorem swap9 : Statement .swap9 := of_width (fun _ => rfl) (by decide) (by decide)
theorem swap10 : Statement .swap10 := of_width (fun _ => rfl) (by decide) (by decide)
theorem swap11 : Statement .swap11 := of_width (fun _ => rfl) (by decide) (by decide)
theorem swap12 : Statement .swap12 := of_width (fun _ => rfl) (by decide) (by decide)
theorem swap13 : Statement .swap13 := of_width (fun _ => rfl) (by decide) (by decide)
theorem swap14 : Statement .swap14 := of_width (fun _ => rfl) (by decide) (by decide)
theorem swap15 : Statement .swap15 := of_width (fun _ => rfl) (by decide) (by decide)
theorem swap16 : Statement .swap16 := of_width (fun _ => rfl) (by decide) (by decide)

theorem undefined (op : Byte) : Statement (.undefined op) :=
  of_width (by revert op; decide) (by simp [Instr.immBytes, Instr.pushWidth]) (by simp [Instr.immediate])

end Sys2Proof.Laws.EncodedForm
end

