-- ==== Sys2Proof/Laws/Step.lean ====
section
/-! SUPPORT. What one step can do, said once: it steps only from FETCHING, and then either halts at the end of the code or
executes the instruction whose opcode byte stands at pc. -/

namespace Sys2Proof.Machine

theorem step_of_runnable {s : State} (h : s.Runnable) : step s = stepFetching s := by
  simp [step, h.fetching, h.admitted]

theorem step_halted {s : State} (h : s.rs = .halted) : step s = .fault .runHalted := by
  simp [step, State.endOfRun, h]

theorem step_failed {s : State} (h : s.rs = .failed) : step s = .fault (.runFailed s.cause) := by
  simp [step, State.endOfRun, h]

theorem step_end_of_code {s : State} (h : s.Runnable) (he : s.code.len ≤ s.pc) : step s = .next s.halt := by
  rw [step_of_runnable h, stepFetching, State.fetchBytes_eq_nil.2 he]
  rfl

theorem step_executes {s : State} {op : Byte} {rest : List Byte} (h : s.Runnable) (hb : s.fetchBytes = op :: rest) :
    step s = exec (decodeOpcode op rest) s := by
  rw [step_of_runnable h, stepFetching, hb]
  rfl

/-- Everything a step that answers a next state has done. -/
theorem step_cases {s t : State} (h : step s = .next t) :
    s.Runnable ∧
      ((s.code.len ≤ s.pc ∧ t = s.halt) ∨
       (s.pc < s.code.len ∧ ∃ op rest, s.fetchBytes = op :: rest ∧ s.code.read s.pc = some op ∧
          exec (decodeOpcode op rest) s = .next t)) := by
  have hr : s.Runnable := by
    constructor
    · cases hrs : s.rs with
      | fetching => rfl
      | halted => simp [step_halted hrs] at h
      | failed => simp [step_failed hrs] at h
    · by_contra ha
      cases hrs : s.rs with
      | fetching => simp [step, hrs, ha] at h
      | halted => simp [step_halted hrs] at h
      | failed => simp [step_failed hrs] at h
  refine ⟨hr, ?_⟩
  by_cases he : s.code.len ≤ s.pc
  · rw [step_end_of_code hr he] at h
    exact .inl ⟨he, (Host.Outcome.next.inj h).symm⟩
  · cases hb : s.fetchBytes with
    | nil => exact absurd (State.fetchBytes_eq_nil.1 hb) he
    | cons op rest =>
      exact .inr ⟨Nat.lt_of_not_le he, op, rest, rfl, State.fetchBytes_head hb, step_executes hr hb ▸ h⟩

/-- The machine is never stuck: from FETCHING, on admitted code, a step answers a next state. -/
theorem step_answers_next {s : State} (h : s.Runnable) : ∃ t, step s = .next t := by
  by_cases he : s.code.len ≤ s.pc
  · exact ⟨_, step_end_of_code h he⟩
  · cases hb : s.fetchBytes with
    | nil => exact absurd (State.fetchBytes_eq_nil.1 hb) he
    | cons op rest => rw [step_executes h hb]; exact exec_answers_next _ s

end Sys2Proof.Machine
end

