-- ==== Sys2Proof/Laws/Words.lean ====
section
/-! SUPPORT. Narrowing and the signed view in terms of the bit-vector library: the lemmas that take the spec's integer
formulas down to arithmetic. -/

namespace Sys2Proof.Machine

/-- `wrap` of a natural number reduces it modulo 2^256 (R6). -/
@[simp] theorem wrap_natCast_toNat (n : Nat) : (wrap (n : Int)).toNat = n % 2 ^ 256 := by
  rw [wrap, BitVec.ofInt_natCast, BitVec.toNat_ofNat]

/-- `wrap` of any integer is congruent to it (R6). -/
theorem wrap_toInt_emod (v : Int) : ((wrap v).toNat : Int) = v % 2 ^ 256 := by
  rw [wrap, BitVec.toNat_ofInt, Int.toNat_of_nonneg (Int.emod_nonneg _ (by decide))]
  rfl

/-- A number below 2^256 is not changed by `wrap`. -/
theorem wrap_toNat_of_lt {n : Nat} (h : n < 2 ^ 256) : (wrap (n : Int)).toNat = n := by
  rw [wrap_natCast_toNat, Nat.mod_eq_of_lt h]

/-- `to_signed` is the library's two's complement view (R8). -/
theorem toSigned_eq_toInt (w : Word) : toSigned w = w.toInt := by
  have hm : w.getLsbD 255 = w.msb := by simp [BitVec.msb_eq_getLsbD_last]
  rw [toSigned, hm, BitVec.toInt_eq_msb_cond]
  rfl

/-- Re-encoding the signed view gives the Word back (R8). -/
theorem wrap_toSigned (w : Word) : wrap (toSigned w) = w := by
  rw [toSigned_eq_toInt, wrap, BitVec.ofInt_toInt]

end Sys2Proof.Machine
end

