-- ==== Sys2Proof/Tests/Slice0.lean ====
section
/-! SUPPORT. The model's own tests. Each expected result comes from the spec: a rule's example, a vector of
spec/95_test_vectors.md (named by its id), or the encoding tables of spec/30_encoding.md; none was read off the model.
Then, for each statement with hypotheses, a witness that meets them. -/

namespace Sys2Proof.Tests

open Sys2Proof.Machine Sys2Proof.Claims

/-! ### Well-formedness: the one check, at the ends of its four ranges and beside them (R69) -/

theorem test_ill_formed_undefined :
    [0x00, 0x0B, 0x10, 0x1D, 0x50, 0x5F, 0x60, 0x9F].all (fun b => !(Instr.undefined b).wellFormed) = true := by decide

theorem test_well_formed_undefined :
    [0x0C, 0x0F, 0x1E, 0x4F, 0x51, 0x5E, 0xA0, 0xFF].all (fun b => (Instr.undefined b).wellFormed) = true := by decide

theorem test_well_formed_defined : [Instr.stop, .add, .push1 0xFF, .push32 1, .dup16, .swap16].all Instr.wellFormed = true := by
  decide

/-! ### Decoding: the word of every constructor, written out from R60 and R64 -/

/-- Each byte sequence decodes to the instruction beside it, with nothing left over. -/
def decodesAs (ws : List (List Byte × Instr)) : Bool :=
  ws.all fun w =>
    match decode w.1 with
    | .ok (i, rest) => i == w.2 && rest == []
    | .error _ => false

theorem test_decode_one_byte : decodesAs ([
    ([0x00], .stop), ([0x01], .add), ([0x02], .mul), ([0x03], .sub), ([0x04], .div), ([0x05], .sdiv), ([0x06],
      .mod), ([0x07], .smod), ([0x08], .addmod), ([0x09], .mulmod), ([0x0A], .exp), ([0x0B],
      .signextend)] ++ [
    ([0x10], .lt), ([0x11], .gt), ([0x12], .slt), ([0x13], .sgt), ([0x14], .eq), ([0x15], .iszero), ([0x16],
      .and), ([0x17], .or), ([0x18], .xor), ([0x19], .not), ([0x1A], .byte), ([0x1B], .shl), ([0x1C], .shr),
      ([0x1D], .sar)] ++ [
    ([0x50], .pop), ([0x80], .dup1), ([0x81], .dup2), ([0x82], .dup3), ([0x83], .dup4), ([0x84], .dup5),
      ([0x85], .dup6), ([0x86], .dup7), ([0x87], .dup8), ([0x88], .dup9), ([0x89], .dup10), ([0x8A], .dup11),
      ([0x8B], .dup12), ([0x8C], .dup13), ([0x8D], .dup14), ([0x8E], .dup15), ([0x8F],
      .dup16)] ++ [
    ([0x90], .swap1), ([0x91], .swap2), ([0x92], .swap3), ([0x93], .swap4), ([0x94], .swap5), ([0x95], .swap6),
      ([0x96], .swap7), ([0x97], .swap8), ([0x98], .swap9), ([0x99], .swap10), ([0x9A], .swap11), ([0x9B],
      .swap12), ([0x9C], .swap13), ([0x9D], .swap14), ([0x9E], .swap15), ([0x9F],
      .swap16)]) = true := by decide +kernel

theorem test_decode_push : decodesAs ([
    ([0x5F], .push0),
    ([0x60, 0x01], .push1 0x01),
    ([0x61, 0x01, 0x02], .push2 0x0102),
    ([0x62, 0x01, 0x02, 0x03], .push3 0x010203),
    ([0x63, 0x01, 0x02, 0x03, 0x04], .push4 0x01020304),
    ([0x64, 0x01, 0x02, 0x03, 0x04, 0x05], .push5 0x0102030405),
    ([0x65, 0x01, 0x02, 0x03, 0x04, 0x05, 0x06], .push6 0x010203040506),
    ([0x66, 0x01, 0x02, 0x03, 0x04, 0x05, 0x06, 0x07], .push7 0x01020304050607),
    ([0x67, 0x01, 0x02, 0x03, 0x04, 0x05, 0x06, 0x07, 0x08], .push8 0x0102030405060708),
    ([0x68, 0x01, 0x02, 0x03, 0x04, 0x05, 0x06, 0x07, 0x08, 0x09], .push9 0x010203040506070809),
    ([0x69, 0x01, 0x02, 0x03, 0x04, 0x05, 0x06, 0x07, 0x08, 0x09, 0x0A],
      .push10 0x0102030405060708090A)] ++ [
    ([0x6A, 0x01, 0x02, 0x03, 0x04, 0x05, 0x06, 0x07, 0x08, 0x09, 0x0A, 0x0B],
      .push11 0x0102030405060708090A0B),
    ([0x6B, 0x01, 0x02, 0x03, 0x04, 0x05, 0x06, 0x07, 0x08, 0x09, 0x0A, 0x0B, 0x0C],
      .push12 0x0102030405060708090A0B0C),
    ([0x6C, 0x01, 0x02, 0x03, 0x04, 0x05, 0x06, 0x07, 0x08, 0x09, 0x0A, 0x0B, 0x0C, 0x0D],
      .push13 0x0102030405060708090A0B0C0D),
    ([0x6D, 0x01, 0x02, 0x03, 0x04, 0x05, 0x06, 0x07, 0x08, 0x09, 0x0A, 0x0B, 0x0C, 0x0D, 0x0E],
      .push14 0x0102030405060708090A0B0C0D0E),
    ([0x6E, 0x01, 0x02, 0x03, 0x04, 0x05, 0x06, 0x07, 0x08, 0x09, 0x0A, 0x0B, 0x0C, 0x0D, 0x0E, 0x0F],
      .push15 0x0102030405060708090A0B0C0D0E0F),
    ([0x6F, 0x01, 0x02, 0x03, 0x04, 0x05, 0x06, 0x07, 0x08, 0x09, 0x0A, 0x0B, 0x0C, 0x0D, 0x0E, 0x0F, 0x10],
      .push16 0x0102030405060708090A0B0C0D0E0F10),
    ([0x70, 0x01, 0x02, 0x03, 0x04, 0x05, 0x06, 0x07, 0x08, 0x09, 0x0A, 0x0B, 0x0C, 0x0D, 0x0E, 0x0F, 0x10,
      0x11], .push17 0x0102030405060708090A0B0C0D0E0F1011),
    ([0x71, 0x01, 0x02, 0x03, 0x04, 0x05, 0x06, 0x07, 0x08, 0x09, 0x0A, 0x0B, 0x0C, 0x0D, 0x0E, 0x0F, 0x10,
      0x11, 0x12], .push18 0x0102030405060708090A0B0C0D0E0F101112),
    ([0x72, 0x01, 0x02, 0x03, 0x04, 0x05, 0x06, 0x07, 0x08, 0x09, 0x0A, 0x0B, 0x0C, 0x0D, 0x0E, 0x0F, 0x10,
      0x11, 0x12, 0x13], .push19 0x0102030405060708090A0B0C0D0E0F10111213),
    ([0x73, 0x01, 0x02, 0x03, 0x04, 0x05, 0x06, 0x07, 0x08, 0x09, 0x0A, 0x0B, 0x0C, 0x0D, 0x0E, 0x0F, 0x10,
      0x11, 0x12, 0x13, 0x14], .push20 0x0102030405060708090A0B0C0D0E0F1011121314),
    ([0x74, 0x01, 0x02, 0x03, 0x04, 0x05, 0x06, 0x07, 0x08, 0x09, 0x0A, 0x0B, 0x0C, 0x0D, 0x0E, 0x0F, 0x10,
      0x11, 0x12, 0x13, 0x14, 0x15],
      .push21 0x0102030405060708090A0B0C0D0E0F101112131415)] ++ [
    ([0x75, 0x01, 0x02, 0x03, 0x04, 0x05, 0x06, 0x07, 0x08, 0x09, 0x0A, 0x0B, 0x0C, 0x0D, 0x0E, 0x0F, 0x10,
      0x11, 0x12, 0x13, 0x14, 0x15, 0x16], .push22 0x0102030405060708090A0B0C0D0E0F10111213141516),
    ([0x76, 0x01, 0x02, 0x03, 0x04, 0x05, 0x06, 0x07, 0x08, 0x09, 0x0A, 0x0B, 0x0C, 0x0D, 0x0E, 0x0F, 0x10,
      0x11, 0x12, 0x13, 0x14, 0x15, 0x16, 0x17], .push23 0x0102030405060708090A0B0C0D0E0F1011121314151617),
    ([0x77, 0x01, 0x02, 0x03, 0x04, 0x05, 0x06, 0x07, 0x08, 0x09, 0x0A, 0x0B, 0x0C, 0x0D, 0x0E, 0x0F, 0x10,
      0x11, 0x12, 0x13, 0x14, 0x15, 0x16, 0x17, 0x18],
      .push24 0x0102030405060708090A0B0C0D0E0F101112131415161718),
    ([0x78, 0x01, 0x02, 0x03, 0x04, 0x05, 0x06, 0x07, 0x08, 0x09, 0x0A, 0x0B, 0x0C, 0x0D, 0x0E, 0x0F, 0x10,
      0x11, 0x12, 0x13, 0x14, 0x15, 0x16, 0x17, 0x18, 0x19],
      .push25 0x0102030405060708090A0B0C0D0E0F10111213141516171819),
    ([0x79, 0x01, 0x02, 0x03, 0x04, 0x05, 0x06, 0x07, 0x08, 0x09, 0x0A, 0x0B, 0x0C, 0x0D, 0x0E, 0x0F, 0x10,
      0x11, 0x12, 0x13, 0x14, 0x15, 0x16, 0x17, 0x18, 0x19, 0x1A],
      .push26 0x0102030405060708090A0B0C0D0E0F101112131415161718191A),
    ([0x7A, 0x01, 0x02, 0x03, 0x04, 0x05, 0x06, 0x07, 0x08, 0x09, 0x0A, 0x0B, 0x0C, 0x0D, 0x0E, 0x0F, 0x10,
      0x11, 0x12, 0x13, 0x14, 0x15, 0x16, 0x17, 0x18, 0x19, 0x1A, 0x1B],
      .push27 0x0102030405060708090A0B0C0D0E0F101112131415161718191A1B),
    ([0x7B, 0x01, 0x02, 0x03, 0x04, 0x05, 0x06, 0x07, 0x08, 0x09, 0x0A, 0x0B, 0x0C, 0x0D, 0x0E, 0x0F, 0x10,
      0x11, 0x12, 0x13, 0x14, 0x15, 0x16, 0x17, 0x18, 0x19, 0x1A, 0x1B, 0x1C],
      .push28 0x0102030405060708090A0B0C0D0E0F101112131415161718191A1B1C),
    ([0x7C, 0x01, 0x02, 0x03, 0x04, 0x05, 0x06, 0x07, 0x08, 0x09, 0x0A, 0x0B, 0x0C, 0x0D, 0x0E, 0x0F, 0x10,
      0x11, 0x12, 0x13, 0x14, 0x15, 0x16, 0x17, 0x18, 0x19, 0x1A, 0x1B, 0x1C, 0x1D],
      .push29 0x0102030405060708090A0B0C0D0E0F101112131415161718191A1B1C1D),
    ([0x7D, 0x01, 0x02, 0x03, 0x04, 0x05, 0x06, 0x07, 0x08, 0x09, 0x0A, 0x0B, 0x0C, 0x0D, 0x0E, 0x0F, 0x10,
      0x11, 0x12, 0x13, 0x14, 0x15, 0x16, 0x17, 0x18, 0x19, 0x1A, 0x1B, 0x1C, 0x1D, 0x1E],
      .push30 0x0102030405060708090A0B0C0D0E0F101112131415161718191A1B1C1D1E),
    ([0x7E, 0x01, 0x02, 0x03, 0x04, 0x05, 0x06, 0x07, 0x08, 0x09, 0x0A, 0x0B, 0x0C, 0x0D, 0x0E, 0x0F, 0x10,
      0x11, 0x12, 0x13, 0x14, 0x15, 0x16, 0x17, 0x18, 0x19, 0x1A, 0x1B, 0x1C, 0x1D, 0x1E, 0x1F],
      .push31 0x0102030405060708090A0B0C0D0E0F101112131415161718191A1B1C1D1E1F),
    ([0x7F, 0x01, 0x02, 0x03, 0x04, 0x05, 0x06, 0x07, 0x08, 0x09, 0x0A, 0x0B, 0x0C, 0x0D, 0x0E, 0x0F, 0x10,
      0x11, 0x12, 0x13, 0x14, 0x15, 0x16, 0x17, 0x18, 0x19, 0x1A, 0x1B, 0x1C, 0x1D, 0x1E, 0x1F, 0x20],
      .push32 0x0102030405060708090A0B0C0D0E0F101112131415161718191A1B1C1D1E1F20)]) = true := by decide +kernel

theorem test_decode_undefined : decodesAs ([0x0C, 0x1E, 0x20, 0x40, 0x51, 0x52, 0x54, 0x58, 0x5C, 0x5E, 0xA0, 0xC0].map
    fun b => ([b], .undefined b)) = true := by decide +kernel

/-- The only byte sequence the decoder rejects, by name. -/
theorem test_decode_rejects_nothing_to_read : decode [] = .error .noOpcode := rfl

/-- R46's example `62abcd`: the missing byte reads as 0x00. -/
theorem test_decode_truncated : decodesAs [([0x62, 0xAB, 0xCD], .push3 0xABCD00)] = true := by decide

/-- Big-endian: `61 00 01` is PUSH2 of 1 and takes 3 bytes (R181). -/
theorem test_encode_push2 : encode (.push2 0x0001) = [0x61, 0x00, 0x01] := by decide

theorem test_encode_one_byte :
    [encode .stop, encode .exp, encode .dup16, encode .swap1] = [[0x00], [0x0A], [0x8F], [0x90]] := by decide

/-- The first byte of a table word is its bits 7..0, the second its bits 15..8; above `nbits` all is 0. -/
theorem test_decodeTableWord :
    decodeTableWord 8 0x01 = some .add ∧ decodeTableWord 16 0xAB60 = some (.push1 0xAB) ∧
      decodeTableWord 8 0xAB60 = some (.push1 0) ∧ decodeTableWord 8 0xC0 = some (.undefined 0xC0) := by decide +kernel

/-! ### One step of each instruction -/

/-- A small state: code of 40 zero bytes, pc 0, the given stack, reference parameters. -/
def sample (S : List Word) : State := { State.reset with code := { len := 40, cells := [] }, stack := S }

/-- What a step leaves: the stack, the pc, the run state and the cause. -/
def seen : StepOutcome → Option (List Word × Nat × RunState × Cause)
  | .next t => some (t.stack, t.pc, t.rs, t.cause)
  | _ => none

/-- An instruction completes with this stack, pc moved past `n` immediate bytes. -/
def gives (i : Instr) (S : List Word) (n : Nat) (S' : List Word) : Bool :=
  seen (exec i (sample S)) == some (S', 1 + n, .fetching, .none)

/-- An instruction faults with this cause, the stack unchanged and pc past it. -/
def faults (i : Instr) (s : State) (c : Cause) : Bool :=
  seen (exec i s) == some (s.stack, s.pc + 1, .failed, c)

/-- The arithmetic instructions, by the vectors of spec/95 or the rules' examples named. -/
theorem test_arithmetic : (
    -- ADD: V-ADD-2, V-ADD-1
    gives .add [0xffffffffffffffffffffffffffffffffffffffffffffffffffffffffffffffff, 1] 0 [0] &&
    gives .add [1, 1] 0 [2] &&
    -- MUL: V-MUL-4, V-MUL-2
    gives .mul [0xffffffffffffffffffffffffffffffffffffffffffffffffffffffffffffffff, 0xffffffffffffffffffffffffffffffffffffffffffffffffffffffffffffffff] 0 [1] &&
    gives .mul [0x8000000000000000000000000000000000000000000000000000000000000000, 2] 0 [0] &&
    -- SUB: V-SUB-3, V-SUB-1: the top is the minuend
    gives .sub [3, 5] 0 [0xfffffffffffffffffffffffffffffffffffffffffffffffffffffffffffffffe] &&
    gives .sub [5, 3] 0 [2] &&
    -- DIV: V-DIV-1, V-DIV-2
    gives .div [7, 2] 0 [3] &&
    gives .div [1, 0] 0 [0] &&
    -- SDIV: V-SDIV-1, V-SDIV-4
    gives .sdiv [0xfffffffffffffffffffffffffffffffffffffffffffffffffffffffffffffff9, 2] 0 [0xfffffffffffffffffffffffffffffffffffffffffffffffffffffffffffffffd] &&
    gives .sdiv [0x8000000000000000000000000000000000000000000000000000000000000000, 0xffffffffffffffffffffffffffffffffffffffffffffffffffffffffffffffff] 0 [0x8000000000000000000000000000000000000000000000000000000000000000] &&
    -- MOD: V-MOD-3, V-MOD-2
    gives .mod [0xffffffffffffffffffffffffffffffffffffffffffffffffffffffffffffffff, 0x8000000000000000000000000000000000000000000000000000000000000000] 0 [0x7fffffffffffffffffffffffffffffffffffffffffffffffffffffffffffffff] &&
    gives .mod [5, 0] 0 [0] &&
    -- SMOD: V-SMOD-1, V-SMOD-2
    gives .smod [0xfffffffffffffffffffffffffffffffffffffffffffffffffffffffffffffff9, 2] 0 [0xffffffffffffffffffffffffffffffffffffffffffffffffffffffffffffffff] &&
    gives .smod [7, 0xfffffffffffffffffffffffffffffffffffffffffffffffffffffffffffffffe] 0 [1] &&
    -- ADDMOD: V-ADDMOD-1: the sum is exact
    gives .addmod [0xffffffffffffffffffffffffffffffffffffffffffffffffffffffffffffffff, 1, 10] 0 [6] &&
    gives .addmod [1, 2, 0] 0 [0] &&
    -- MULMOD: V-MULMOD-1: the product is exact
    gives .mulmod [0xffffffffffffffffffffffffffffffffffffffffffffffffffffffffffffffff, 0xffffffffffffffffffffffffffffffffffffffffffffffffffffffffffffffff, 12] 0 [9] &&
    gives .mulmod [5, 6, 0] 0 [0] &&
    -- EXP: V-EXP-4, V-EXP-2, V-EXP-1: the top is the base
    gives .exp [3, 0xffffffffffffffffffffffffffffffffffffffffffffffffffffffffffffffff] 0 [0xaaaaaaaaaaaaaaaaaaaaaaaaaaaaaaaaaaaaaaaaaaaaaaaaaaaaaaaaaaaaaaab] &&
    gives .exp [0, 0] 0 [1] &&
    gives .exp [2, 10] 0 [0x400] &&
    -- SIGNEXTEND: V-SEXT-3, V-SEXT-5
    gives .signextend [0, 0x17f] 0 [0x17f] &&
    gives .signextend [5, 0x80] 0 [0xffffffffffffffffffffffffffffffffffffffffffffffffffffffffffffff80]) = true := by decide +kernel

/-- The comparisons, by the vectors of spec/95 or the rules' examples named. -/
theorem test_compare : (
    -- LT: V-LT-4, V-LT-2
    gives .lt [1, 0xffffffffffffffffffffffffffffffffffffffffffffffffffffffffffffffff] 0 [1] &&
    gives .lt [2, 1] 0 [0] &&
    -- GT: V-GT-2, V-GT-3
    gives .gt [0xffffffffffffffffffffffffffffffffffffffffffffffffffffffffffffffff, 1] 0 [1] &&
    gives .gt [5, 5] 0 [0] &&
    -- SLT: V-SLT-1, V-SLT-2
    gives .slt [0xffffffffffffffffffffffffffffffffffffffffffffffffffffffffffffffff, 0] 0 [1] &&
    gives .slt [0, 0xffffffffffffffffffffffffffffffffffffffffffffffffffffffffffffffff] 0 [0] &&
    -- SGT: V-SGT-1, V-SGT-2
    gives .sgt [0, 0xffffffffffffffffffffffffffffffffffffffffffffffffffffffffffffffff] 0 [1] &&
    gives .sgt [0xffffffffffffffffffffffffffffffffffffffffffffffffffffffffffffffff, 0] 0 [0] &&
    -- EQ: V-EQ-1, V-EQ-2
    gives .eq [5, 5] 0 [1] &&
    gives .eq [5, 6] 0 [0] &&
    -- ISZERO: V-ISZERO-1, V-ISZERO-3
    gives .iszero [0] 0 [1] &&
    gives .iszero [0x8000000000000000000000000000000000000000000000000000000000000000] 0 [0]) = true := by decide +kernel

/-- The bitwise instructions, BYTE and the shifts, by the vectors of spec/95 or the rules' examples named. -/
theorem test_bitwise_and_shifts : (
    -- AND: V-AND-1
    gives .and [0xf0f0, 0xff00] 0 [0xf000] &&
    -- OR: V-OR-1
    gives .or [0xf0f0, 0xf0f] 0 [0xffff] &&
    -- XOR: V-XOR-1
    gives .xor [0xff, 0xf] 0 [0xf0] &&
    -- NOT: V-NOT-3
    gives .not [1] 0 [0xfffffffffffffffffffffffffffffffffffffffffffffffffffffffffffffffe] &&
    -- BYTE: V-BYTE-2, V-BYTE-3, V-BYTE-4
    gives .byte [0x1e, 0xabcd] 0 [0xab] &&
    gives .byte [0, 0x8000000000000000000000000000000000000000000000000000000000000000] 0 [0x80] &&
    gives .byte [0x20, 0xffffffffffffffffffffffffffffffffffffffffffffffffffffffffffffffff] 0 [0] &&
    -- SHL: V-SHL-3, V-SHL-4: the top is the shift amount
    gives .shl [0xff, 3] 0 [0x8000000000000000000000000000000000000000000000000000000000000000] &&
    gives .shl [0x100, 1] 0 [0] &&
    -- SHR: V-SHR-2, V-SHR-3
    gives .shr [0xff, 0x8000000000000000000000000000000000000000000000000000000000000000] 0 [1] &&
    gives .shr [0x100, 0xffffffffffffffffffffffffffffffffffffffffffffffffffffffffffffffff] 0 [0] &&
    -- SAR: V-SAR-2, V-SAR-6, V-SAR-8
    gives .sar [4, 0xffffffffffffffffffffffffffffffffffffffffffffffffffffffffffffffef] 0 [0xfffffffffffffffffffffffffffffffffffffffffffffffffffffffffffffffe] &&
    gives .sar [0x100, 0xffffffffffffffffffffffffffffffffffffffffffffffffffffffffffffffff] 0 [0xffffffffffffffffffffffffffffffffffffffffffffffffffffffffffffffff] &&
    gives .sar [0xffffffffffffffffffffffffffffffffffffffffffffffffffffffffffffffff, 1] 0 [0]) = true := by decide +kernel

/-- POP, PUSH, DUP and SWAP, by the vectors of spec/95 or the rules' examples named. -/
theorem test_stack_moves : (
    -- POP: V-POP-3
    gives .pop [2, 1] 0 [1] &&
    -- PUSH0: V-PUSH-1
    gives .push0 [7] 0 [0, 7] &&
    -- PUSH1: R183
    gives (.push1 1) [] 1 [1] &&
    -- PUSH2: R184, R198, R213
    gives (.push2 0x102) [9] 2 [0x102, 9] &&
    gives (.push16 0xff) [] 16 [0xff] &&
    gives (.push31 0x01) [] 31 [1] &&
    -- PUSH32: V-PUSH-4
    gives (.push32 0x0102030405060708090a0b0c0d0e0f101112131415161718191a1b1c1d1e1f20) [] 32 [0x102030405060708090a0b0c0d0e0f101112131415161718191a1b1c1d1e1f20] &&
    -- DUP: V-DUP-1, R217, V-DUP-4
    gives .dup1 [1] 0 [1, 1] &&
    gives .dup2 [7, 8] 0 [8, 7, 8] &&
    gives .dup16 [1, 2, 3, 4, 5, 6, 7, 8, 9, 10, 11, 12, 13, 14, 15, 16] 0 [16, 1, 2, 3, 4, 5, 6, 7, 8, 9, 10, 11, 12, 13, 14, 15, 16] &&
    -- SWAP: V-SWAP-1, R232, V-SWAP-4
    gives .swap1 [2, 1] 0 [1, 2] &&
    gives .swap2 [7, 8, 9] 0 [9, 8, 7] &&
    gives .swap16 [1, 2, 3, 4, 5, 6, 7, 8, 9, 10, 11, 12, 13, 14, 15, 16, 17] 0 [17, 2, 3, 4, 5, 6, 7, 8, 9, 10, 11, 12, 13, 14, 15, 16, 1]) = true := by decide +kernel

/-- Every DUPn and every SWAPn at exactly the depth it needs, from the examples of R216 to R231 and R233 to R248: on the stack
[1, 2, ..., k] DUPk puts k on top, and SWAPk on [1, ..., k+1] exchanges 1 and k+1. -/
theorem test_every_dup_and_swap :
    ((List.range 16).all fun j =>
      let S : List Word := (List.range (j + 1)).map fun x => BitVec.ofNat 256 (x + 1)
      let S' : List Word := (List.range (j + 2)).map fun x => BitVec.ofNat 256 (x + 1)
      gives (dupOf (j + 1)) S 0 (BitVec.ofNat 256 (j + 1) :: S) &&
      gives (swapOf (j + 1)) S' 0 (BitVec.ofNat 256 (j + 2) :: (S'.drop 1).take j ++ [1])) = true := by decide +kernel

/-- Every PUSHn from n = 0 pushes its immediate and moves pc past it (R181). -/
theorem test_every_push :
    ((List.range 33).all fun n =>
      gives (pushOf n (255 * 256 ^ (n - 1) % 256 ^ n)) [5] n [BitVec.ofNat 256 (255 * 256 ^ (n - 1) % 256 ^ n), 5]) = true := by
  decide +kernel

/-- V-SEXTG-2, V-SEXTG-3, V-SEXTG-7: SIGNEXTEND_MODE = General. -/
theorem test_signextend_general :
    let s := fun S => { sample S with cfg := { Config.reference with signExtendMode := .general } }
    ([seen (exec .signextend (s [0, 0x17f])), seen (exec .signextend (s [1, 0x8000])),
      seen (exec .signextend (s [0x1e, 0x8000000000000000000000000000000000000000000000000000000000000000]))] ==
     [some ([0x7f], 1, .fetching, .none),
      some ([0xffffffffffffffffffffffffffffffffffffffffffffffffffffffffffff8000], 1, .fetching, .none),
      some ([0], 1, .fetching, .none)]) = true := by decide +kernel

/-! ### STOP, undefined bytes, faults and the loop -/

/-- R82: pc unchanged, bytes after it not looked at. -/
theorem test_stop : seen (exec .stop (sample [5])) = some ([5], 0, .halted, .none) := by decide

/-- V-UND-6 and V-UND-4. -/
theorem test_undefined :
    seen (exec (.undefined 0xFF) (sample [5])) = some ([5], 1, .fetching, .none) ∧
    faults (.undefined 0xFE) { sample [5] with cfg := { Config.reference with unknownOpcodePolicy := .fault } }
      .unknownOpcode = true := by decide

/-- V-UF-2, V-UF-4, V-DUP-3, V-SWAP-3: S unchanged, pc advanced. -/
theorem test_underflow :
    faults .addmod (sample [1]) .stackUnderflow = true ∧ faults .signextend (sample [1]) .stackUnderflow = true ∧
    faults .dup2 (sample [1]) .stackUnderflow = true ∧ faults .swap2 (sample [2, 1]) .stackUnderflow = true := by decide

/-- V-OF-2, V-OF-4, V-OF-5: at full capacity DUP1 overflows; SWAP1 and ADD do not. -/
theorem test_overflow :
    let s := { sample [2, 1] with cfg := { Config.reference with stackCapacity := .atMost 2 } }
    faults .dup1 s .stackOverflow = true ∧ seen (exec .swap1 s) = some ([1, 2], 1, .fetching, .none) ∧
    seen (exec .add s) = some ([3], 1, .fetching, .none) := by decide

/-- V-PUSH-9 and V-PUSH-7: PUSH2 with one byte left, under Fault (pc not advanced) and under ZeroPad. -/
theorem test_truncated_push :
    let s := { State.reset with code := Memory.ofBytes [0x61, 0x01] }
    seen (step { s with cfg := { Config.reference with truncatedPushPolicy := .fault } }) =
      some ([], 0, .failed, .truncatedImmediate) ∧
    seen (step s) = some ([0x100], 3, .fetching, .none) := by decide

/-- V-PRI-1: truncation is tested before overflow. -/
theorem test_priority :
    let s := { State.reset with code := Memory.ofBytes [0x61] }
    seen (step { s with cfg := { Config.reference with truncatedPushPolicy := .fault, stackCapacity := .atMost 0 } }) =
      some ([], 0, .failed, .truncatedImmediate) := by decide

/-- V-LOOP-1: empty code halts at once. -/
theorem test_end_of_code : seen (step State.reset) = some ([], 0, .halted, .none) := by decide

/-- A halted run has no next step (R29). -/
theorem test_halted_has_no_step :
    (match step State.reset with | .next t => (step t matches .fault .runHalted) | _ => false) = true := by decide

/-- I10: code longer than CODE_LEN_MAX is refused. -/
theorem test_code_too_long :
    (step { sample [] with cfg := { Config.reference with limits := some ⟨8, 39, by decide⟩ } } matches
      .refused .codeTooLong) = true := by decide

/-- The word of a table row, placed where step fetches it, is what step runs. -/
theorem test_withFetchWord :
    seen (step (State.reset.withFetchWord 16 0xAB60)) = some ([0xAB], 2, .fetching, .none) ∧
    seen (step (State.reset.withFetchWord 8 0x01)) = some ([], 1, .failed, .stackUnderflow) := by decide +kernel

/-- V-ADD-1 and V-DUP-5's shape through the interface: `6001600101` and `01` (S1 and S4). -/
theorem test_execute :
    execute Config.reference [0x60, 0x01, 0x60, 0x01, 0x01] = some ⟨true, [2], .none⟩ ∧
    execute Config.reference [0x01] = some ⟨false, [], .stackUnderflow⟩ := by decide +kernel

/-! ### Witnesses: for each statement with hypotheses, a state and operands that meet them -/

/-- A state at full capacity, `n` elements of STACK_CAPACITY = n. -/
def full (S : List Word) : State :=
  { sample S with cfg := { Config.reference with stackCapacity := .atMost S.length } }

/-- A state in which PUSHn at pc 0 is truncated, under each policy. -/
def cut (p : TruncatedPushPolicy) : State :=
  { State.reset with code := Memory.ofBytes [0x61, 0x01], cfg := { Config.reference with truncatedPushPolicy := p } }

/-- Limits that admit 8 bytes of code in 6 bits of pc: 8 + 33 <= 64. -/
def sixBits : Limits := ⟨6, 8, by decide⟩

theorem sample_runnable (S : List Word) : (sample S).Runnable := ⟨rfl, rfl⟩
theorem cut_runnable (p : TruncatedPushPolicy) : (cut p).Runnable := ⟨rfl, rfl⟩

/-- A step with a next state. -/
theorem witness_StartLeavesResetState : step (sample [1]) = .next (sample [1]).halt := rfl

/-- The sample state meets the invariant. -/
theorem sample_inv (S : List Word) : (sample S).Inv where
  codeWf := rfl
  admitted := rfl
  pcBound := by simp [sample, State.reset]
  stackFits := rfl
  causeIff := by simp [sample, State.reset]

/-- Code of exactly CODE_LEN_MAX bytes is admitted. -/
theorem witness_ResetMeetsInvariant :
    (State.start { Config.reference with limits := some sixBits } (List.replicate 8 0)).codeAdmitted = true := by decide

/-- A state that meets the invariant and steps. -/
theorem witness_StepKeepsInvariant :
    (sample [5]).Inv ∧ step (sample [5]) = .next (sample [5]).halt := ⟨sample_inv _, rfl⟩

/-- Limits in force, pc inside the code. -/
theorem witness_PcFitsItsBits :
    let s := State.start { Config.reference with limits := some sixBits } (List.replicate 8 0)
    s.Inv ∧ s.cfg.limits = some sixBits ∧ s.pc < s.code.len := ⟨⟨rfl, rfl, by decide, rfl, by decide⟩, rfl, by decide⟩

/-- A step, a halted state and a failed state. -/
theorem witness_OnlyFetchingHasANextStep :
    (∃ t, step (sample []) = .next t) ∧ (sample []).halt.rs = .halted ∧ ((sample []).raise .stackOverflow).rs = .failed := ⟨⟨_, rfl⟩, rfl, rfl⟩

/-- Code of CODE_LEN_MAX bytes, and of one more. -/
theorem witness_StepAnswersUnlessCodeTooLong :
    let s := fun n => State.start { Config.reference with limits := some sixBits } (List.replicate n 0)
    (s 8).rs = .fetching ∧ (s 8).code.len ≤ sixBits.codeLenMax ∧ sixBits.codeLenMax < (s 9).code.len := by decide

/-- The bytes of PUSH2 0x0102 stand whole at pc 0. -/
theorem witness_StepRunsDecodedInstruction :
    let s := State.start Config.reference [0x61, 0x01, 0x02]
    s.Runnable ∧ (Instr.push2 0x0102).WellFormed ∧
      ∀ k b, (encode (.push2 0x0102))[k]? = some b → s.code.read (s.pc + k) = some b := by
  refine ⟨⟨rfl, rfl⟩, rfl, ?_⟩
  rintro (_ | _ | _ | k) b h
  · exact h
  · exact h
  · exact h
  · have hk : (encode (.push2 0x0102)).length ≤ k + 1 + 1 + 1 := by simp [encode, Instr.immBytes, Instr.pushWidth, beBytes]
    exact absurd (h.symm.trans (List.getElem?_eq_none hk)) (by simp)

/-- pc at L and past it. -/
theorem witness_EndOfCodeHalts :
    (State.start Config.reference []).Runnable ∧ State.reset.code.len ≤ State.reset.pc ∧
    ({ cut .zeroPad with pc := 3 } : State).Runnable ∧ (cut .zeroPad).code.len ≤ 3 := ⟨⟨rfl, rfl⟩, by decide, ⟨rfl, rfl⟩, by decide⟩

/-- A STOP byte at pc, and a 0x00 byte inside the immediate of a PUSH2. -/
theorem witness_StopHalts :
    (sample []).Runnable ∧ (sample []).code.read (sample []).pc = some 0x00 ∧
    let s := State.start Config.reference [0x61, 0x01, 0x00]
    s.Runnable ∧ s.code.read s.pc = some (BitVec.ofNat 8 (0x5F + 2)) ∧ s.code.read (s.pc + 2) = some 0x00 ∧
      s.pc + 2 < s.code.len ∧ RoomForOne s :=
  ⟨⟨rfl, rfl⟩, rfl, ⟨rfl, rfl⟩, rfl, rfl, by decide, by decide⟩

/-- The ends of the ranges, and both policies. -/
theorem witness_UndefinedByteSkipsOrFaults :
    isUndefinedByte 0x0C = true ∧ isUndefinedByte 0x4F = true ∧ isUndefinedByte 0xA0 = true ∧ isUndefinedByte 0xFF = true ∧
    (sample []).cfg.unknownOpcodePolicy = .skip ∧
    ({ Config.reference with unknownOpcodePolicy := .fault } : Config).unknownOpcodePolicy = .fault := by decide

/-- What the first step from start leaves. -/
def at0 (cfg : Config) (bs : List Byte) : Option (List Word × Nat × RunState × Cause) := seen (step (State.start cfg bs))

/-- A runnable state that steps, for each of the outcomes of the order: end of code, STOP, skip, unknown, truncated, underflow,
overflow, completion. -/
theorem witness_FirstConditionWins :
    at0 Config.reference [] = some ([], 0, .halted, .none) ∧
    at0 Config.reference [0x00] = some ([], 0, .halted, .none) ∧
    at0 Config.reference [0x0C] = some ([], 1, .fetching, .none) ∧
    at0 { Config.reference with unknownOpcodePolicy := .fault, stackCapacity := .atMost 0 } [0x0C] =
      some ([], 1, .failed, .unknownOpcode) ∧
    at0 { Config.reference with truncatedPushPolicy := .fault, stackCapacity := .atMost 0 } [0x61] =
      some ([], 0, .failed, .truncatedImmediate) ∧
    at0 { Config.reference with stackCapacity := .atMost 0 } [0x80] = some ([], 1, .failed, .stackUnderflow) ∧
    at0 { Config.reference with stackCapacity := .atMost 0 } [0x61] = some ([], 3, .failed, .stackOverflow) ∧
    at0 Config.reference [0x5F] = some ([0], 1, .fetching, .none) := by
  refine ⟨?_, ?_, ?_, ?_, ?_, ?_, ?_, ?_⟩ <;> decide +kernel

/-- Admitted code, with and without limits. -/
theorem witness_EveryRunEnds :
    (State.start Config.reference [0x5F]).codeAdmitted = true ∧
    (State.start { Config.reference with limits := some sixBits } [0x5F, 0x00]).codeAdmitted = true := by decide

/-- Admitted code whose run of two steps ends. -/
theorem witness_ExecutePresentsTheFinalState :
    (State.start Config.reference [0x5F]).codeAdmitted = true ∧
    (match Host.Core.run core 2 (State.start Config.reference [0x5F]) with | .next t => t.rs == .halted | _ => false) = true := ⟨rfl, by decide +kernel⟩

/-- A fetching state and two done ones. -/
theorem witness_SuccessIsHalted :
    (sample [1]).rs = .fetching ∧ (sample [1]).halt.rs ≠ .fetching ∧ ((sample [1]).raise .stackUnderflow).rs ≠ .fetching := by decide

/-- A step, and an instruction, with a next state. -/
theorem witness_CodeAndParametersNeverChange :
    (∃ t, exec .dup1 (sample [1]) = .next t) ∧ (∃ t, step (sample [1]) = .next t) ∧
    ∃ t, Host.Core.run core 1 (State.start Config.reference [0x5F]) = .next t := ⟨⟨_, rfl⟩, ⟨_, rfl⟩, ⟨_, rfl⟩⟩

/-- A step after which the run goes on, pc within the bound, and one that halts. -/
theorem witness_PcOnlyAdvances :
    (∃ t, step (cut .zeroPad) = .next t ∧ t.rs = .fetching) ∧ (cut .zeroPad).pc ≤ (cut .zeroPad).code.len + 32 ∧
    ∃ t, step (sample []) = .next t ∧ t.rs = .halted := ⟨⟨_, rfl, rfl⟩, by decide, ⟨_, rfl, rfl⟩⟩

/-- One buffer laid out in two orders. -/
theorem witness_EqualBuffersAreEqualData :
    let m := (Memory.empty.write 0 7).write 1 0
    let m' := (Memory.empty.write 1 0).write 0 7
    m.wf = true ∧ m'.wf = true ∧ m.len = m'.len ∧ m.cells = m'.cells := by decide

/-- Well-formed instructions of each kind. -/
theorem witness_DecodeInvertsEncode :
    (Instr.push32 1).WellFormed ∧ Instr.swap16.WellFormed ∧ (Instr.undefined 0xFF).WellFormed := by decide

/-- A PUSH2 with its bytes all there, and one truncated. -/
theorem witness_EncodeInvertsDecode :
    decode [0x61, 0x01, 0x02] = .ok (.push2 0x0102, []) ∧ (Instr.push2 0x0102).immBytes < [0x61, 0x01, 0x02].length ∧
    decode [0x61, 0x01] = .ok (.push2 0x0100, []) := by decide

/-- An undefined byte decoded, bytes after it left alone. -/
theorem witness_UndefinedBytesAreThe164 :
    decode [0xFF, 0x01] = .ok (.undefined 0xFF, [0x01]) := by decide

/-- The ends of the push range and their neighbours. -/
theorem witness_OpcodeAloneGivesTheLength :
    decode [0x5F, 9] = .ok (.push0, [9]) ∧ decode [0x60, 9] = .ok (.push1 9, []) ∧
    decode (0x7F :: List.replicate 32 1 ++ [9]) = .ok (.push32 (BitVec.ofNat 256 (be (List.replicate 32 1))), [9]) ∧
    decode [0x80, 9] = .ok (.dup1, [9]) := by decide +kernel

/-- n = 1 and n = 32, with n bytes. -/
theorem witness_ImmediateIsBigEndian :
    (List.replicate 1 (0xFF : Byte)).length = 1 ∧ (List.replicate 32 (0xFF : Byte)).length = 32 := by decide

/-- A step that ends in FAILED. -/
theorem witness_FaultsKeepTheStack :
    ∃ t, step (cut .fault) = .next t ∧ t.rs = .failed := ⟨_, rfl, rfl⟩

/-- Depths one below what ADD, SWAP16 and DUP1 need. -/
theorem witness_UnderflowLeavesTheStack :
    (sample [1]).stack.length < (arityOf .add).need ∧ (sample (List.replicate 16 0)).stack.length < (arityOf .swap16).need ∧
    (sample []).stack.length < (arityOf .dup1).need := by decide

/-- PUSH2 and DUP1 at full capacity, where DUP1 raises it; ADD there, its result depth within capacity; and the unbounded
stack. -/
theorem witness_OverflowOnlyAtFiniteCapacity :
    (full [1]).cfg.stackCapacity = .atMost 1 ∧ ¬ TruncationFault (full [1]) (Instr.push2 0).immBytes ∧
    (arityOf .dup1).need ≤ (full [1]).stack.length ∧
    1 < (full [1]).stack.length - (arityOf .dup1).pops + (arityOf .dup1).pushes ∧
    DepthOk (full [1]) ∧ (full [1]).cause ≠ .stackOverflow ∧
    exec .dup1 (full [1]) = .next (faultedPast (full [1]) 0 .stackOverflow) ∧
    exec .add (full [2, 1]) = .next (completed (full [2, 1]) 0 [3]) ∧
    (full [2, 1]).stack.length - (arityOf .add).pops + (arityOf .add).pushes ≤ 2 ∧
    (∃ t, exec .dup1 (sample [1]) = .next t) ∧ (sample [1]).cfg.stackCapacity = .unbounded ∧
    (sample [1]).cause ≠ .stackOverflow :=
  ⟨rfl, by decide, by decide, by decide, by decide, by decide, rfl, rfl, by decide, ⟨_, rfl⟩, rfl, by decide⟩

/-- PUSH2 with one byte left, under both policies: p + n = L, the boundary. -/
theorem witness_TruncatedImmediatePadsOrFaults :
    (cut .zeroPad).Runnable ∧ (cut .fault).Runnable ∧
    (cut .zeroPad).code.read 0 = some (BitVec.ofNat 8 (0x5F + 2)) ∧ (cut .zeroPad).code.len ≤ 0 + 2 ∧
    (cut .zeroPad).cfg.truncatedPushPolicy = .zeroPad ∧ RoomForOne (cut .zeroPad) ∧
    (cut .fault).cfg.truncatedPushPolicy = .fault := ⟨cut_runnable _, cut_runnable _, by decide⟩

/-- An instruction that completes, with elements below its operands. -/
theorem witness_DepthFollowsTheArityTable :
    (sample [1, 2, 3]).rs = .fetching ∧ ∃ t, exec .add (sample [1, 2, 3]) = .next t ∧ t.rs ≠ .failed := ⟨rfl, _, rfl, by decide⟩

/-- An instruction that completes, with elements below its operands. -/
theorem witness_DeepStackIsUntouched :
    (sample [1, 2, 3]).rs = .fetching ∧ ∃ t, exec .add (sample [1, 2, 3]) = .next t ∧ t.rs ≠ .failed := ⟨rfl, _, rfl, by decide⟩

/-- Two states that agree on the two topmost elements only. -/
theorem witness_ResultsDependOnOperandsAlone :
    let s := sample [1, 2, 3]
    let s' : State := { cut .zeroPad with stack := [1, 2, 7, 7], pc := 5 }
    s.cfg = s'.cfg ∧ s.stack.take (arityOf .add).need = s'.stack.take (arityOf .add).need ∧ s.rs = .fetching ∧
      s'.rs = .fetching ∧ (∃ t, exec .add s = .next t ∧ t.rs ≠ .failed) ∧ ∃ t, exec .add s' = .next t ∧ t.rs ≠ .failed := by
  exact ⟨rfl, rfl, rfl, rfl, ⟨_, rfl, by decide⟩, ⟨_, rfl, by decide⟩⟩

/-- Words of both signs, and the ends of the signed range. -/
theorem witness_SignedViewIsReversible :
    (0 : Word).getLsbD 255 = false ∧ (0 - 1 : Word).getLsbD 255 = true ∧ (-2 ^ 255 : Int) ≤ -2 ^ 255 ∧
    (2 ^ 255 - 1 : Int) < 2 ^ 255 := by decide

/-- Two elements at full capacity, and one. -/
theorem witness_AddResult :
    (full [1, 2]).stack = 1 :: 2 :: [] ∧ DepthOk (full [1, 2]) ∧ (sample [1]).stack.length < 2 := by decide

/-- Two elements at full capacity, and one. -/
theorem witness_MulResult :
    (full [1, 2]).stack = 1 :: 2 :: [] ∧ DepthOk (full [1, 2]) ∧ (sample [1]).stack.length < 2 := by decide

/-- Two elements at full capacity, and one. -/
theorem witness_SubResult :
    (full [1, 2]).stack = 1 :: 2 :: [] ∧ DepthOk (full [1, 2]) ∧ (sample [1]).stack.length < 2 := by decide

/-- Two elements at full capacity, and one. -/
theorem witness_ExpResult :
    (full [1, 2]).stack = 1 :: 2 :: [] ∧ DepthOk (full [1, 2]) ∧ (sample [1]).stack.length < 2 := by decide

/-- Two elements at full capacity, and one. -/
theorem witness_UnsignedCompareResults :
    (full [1, 2]).stack = 1 :: 2 :: [] ∧ DepthOk (full [1, 2]) ∧ (sample [1]).stack.length < 2 := by decide

/-- Two elements at full capacity, and one. -/
theorem witness_SignedCompareResults :
    (full [1, 2]).stack = 1 :: 2 :: [] ∧ DepthOk (full [1, 2]) ∧ (sample [1]).stack.length < 2 := by decide

/-- Two elements at full capacity with a divisor that is not 0, with divisor 0, and one element. -/
theorem witness_DivResult :
    (full [7, 2]).stack = 7 :: 2 :: [] ∧ DepthOk (full [7, 2]) ∧ (2 : Word) ≠ 0 ∧ (full [7, 0]).stack = 7 :: 0 :: [] ∧
    DepthOk (full [7, 0]) ∧ (sample [1]).stack.length < 2 := by decide

/-- Two elements at full capacity with a divisor that is not 0, with divisor 0, and one element. -/
theorem witness_ModResult :
    (full [7, 2]).stack = 7 :: 2 :: [] ∧ DepthOk (full [7, 2]) ∧ (2 : Word) ≠ 0 ∧ (full [7, 0]).stack = 7 :: 0 :: [] ∧
    DepthOk (full [7, 0]) ∧ (sample [1]).stack.length < 2 := by decide

/-- Two elements at full capacity with a divisor that is not 0, with divisor 0, and one element. -/
theorem witness_SdivAndSmodPairUp :
    (full [7, 2]).stack = 7 :: 2 :: [] ∧ DepthOk (full [7, 2]) ∧ (2 : Word) ≠ 0 ∧ (full [7, 0]).stack = 7 :: 0 :: [] ∧
    DepthOk (full [7, 0]) ∧ (sample [1]).stack.length < 2 := by decide

/-- The divisor 0, another, and the one quotient out of range. -/
theorem witness_SdivResult :
    let m : Word := BitVec.ofInt 256 (-2 ^ 255)
    (full [m, 0]).stack = m :: 0 :: [] ∧ DepthOk (full [m, 0]) ∧ (full [m, 0 - 1]).stack = m :: (0 - 1) :: [] ∧
    DepthOk (full [m, 0 - 1]) ∧ (0 - 1 : Word) ≠ 0 ∧ m.toInt = -2 ^ 255 ∧ (0 - 1 : Word).toInt = -1 ∧ (sample [1]).stack.length < 2 := by decide +kernel

/-- The divisor 0, another, and dividends of both signs. -/
theorem witness_SmodResult :
    (full [0 - 7, 0]).stack = (0 - 7) :: 0 :: [] ∧ DepthOk (full [0 - 7, 0]) ∧ (2 : Word) ≠ 0 ∧ 0 ≤ (7 : Word).toInt ∧
    (0 - 7 : Word).toInt ≤ 0 ∧ (sample [1]).stack.length < 2 := by decide +kernel

/-- A halted state and a failed state. -/
theorem witness_EndedRunsStopByName :
    (sample []).halt.rs = .halted ∧ ((sample []).raise .stackOverflow).rs = .failed := ⟨rfl, rfl⟩

/-- Runnable states that halt, fault and go on. -/
theorem witness_StepEndsTheRunOrRaisesPc :
    (sample []).Runnable ∧ (State.start Config.reference [0x01]).Runnable ∧ (State.start Config.reference [0x5F]).Runnable :=
  ⟨⟨rfl, rfl⟩, ⟨rfl, rfl⟩, ⟨rfl, rfl⟩⟩

/-- Three elements at full capacity, and two. -/
theorem witness_AddmodResult :
    (full [1, 2, 3]).stack = 1 :: 2 :: 3 :: [] ∧ DepthOk (full [1, 2, 3]) ∧ (sample [1, 2]).stack.length < 3 := by decide

/-- Three elements at full capacity, and two. -/
theorem witness_MulmodResult :
    (full [1, 2, 3]).stack = 1 :: 2 :: 3 :: [] ∧ DepthOk (full [1, 2, 3]) ∧ (sample [1, 2]).stack.length < 3 := by decide

/-- Both modes; k on both sides of 31. -/
theorem witness_SignextendResult :
    (full [30, 2]).stack = 30 :: 2 :: [] ∧ DepthOk (full [30, 2]) ∧ DepthOk (full [31, 2]) ∧ (sample [1]).stack.length < 2 ∧
    (full [30, 2]).cfg.signExtendMode = .narrow ∧
    ({ Config.reference with signExtendMode := .general } : Config).signExtendMode = .general := by decide

/-- Two elements and one at full capacity; one and none. -/
theorem witness_EqualityResults :
    (full [1, 2]).stack = 1 :: 2 :: [] ∧ DepthOk (full [1, 2]) ∧ (full [1]).stack = 1 :: [] ∧ DepthOk (full [1]) ∧
    (sample [1]).stack.length < 2 ∧ (sample []).stack.length < 1 := by decide

/-- Two elements and one at full capacity; one and none. -/
theorem witness_BitwiseResults :
    (full [1, 2]).stack = 1 :: 2 :: [] ∧ DepthOk (full [1, 2]) ∧ (full [1]).stack = 1 :: [] ∧ DepthOk (full [1]) ∧
    (sample [1]).stack.length < 2 ∧ (sample []).stack.length < 1 := by decide

/-- Indices 31 and 32. -/
theorem witness_ByteResult :
    (full [31, 2]).stack = 31 :: 2 :: [] ∧ DepthOk (full [31, 2]) ∧ (31 : Word).toNat ≤ 31 ∧ 31 < (32 : Word).toNat ∧
    (sample [1]).stack.length < 2 := by decide

/-- Shift amounts 255 and 256. -/
theorem witness_LogicalShiftResults :
    (full [255, 2]).stack = 255 :: 2 :: [] ∧ DepthOk (full [255, 2]) ∧ DepthOk (full [256, 2]) ∧ ¬ 256 ≤ (255 : Word).toNat ∧
    256 ≤ (256 : Word).toNat ∧ (sample [1]).stack.length < 2 := by decide

/-- Shift amounts 255 and 256. -/
theorem witness_ArithmeticShiftResult :
    (full [255, 2]).stack = 255 :: 2 :: [] ∧ DepthOk (full [255, 2]) ∧ DepthOk (full [256, 2]) ∧ ¬ 256 ≤ (255 : Word).toNat ∧
    256 ≤ (256 : Word).toNat ∧ (sample [1]).stack.length < 2 := by decide

/-- One element at full capacity; none. -/
theorem witness_PopResult :
    (full [1]).stack = 1 :: [] ∧ DepthOk (full [1]) ∧ (sample []).stack = [] := by decide

/-- n = 32, the largest immediate, room and no room, a truncation fault, and the bytes of PUSH1 in CODE. -/
theorem witness_PushResult :
    256 ^ 32 - 1 < 256 ^ 32 ∧ ¬ TruncationFault (sample []) 32 ∧ RoomForOne (sample []) ∧
    ¬ TruncationFault (full []) 32 ∧ ¬ RoomForOne (full []) ∧ TruncationFault (cut .fault) 2 ∧
    (State.start Config.reference [0x60, 0x07]).code.read 0 = some (BitVec.ofNat 8 (0x5F + 1)) ∧
    ¬ TruncationFault (State.start Config.reference [0x60, 0x07]) 1 ∧ RoomForOne (State.start Config.reference [0x60, 0x07]) ∧
    ¬ TruncationFault (cut .zeroPad) 2 := by decide

/-- DUP16 at exactly 16 elements, with and without room; DUP1 with none. -/
theorem witness_DupResult :
    (sample (List.replicate 16 3)).stack[16 - 1]? = some 3 ∧ RoomForOne (sample (List.replicate 16 3)) ∧
    16 ≤ (full (List.replicate 16 3)).stack.length ∧ ¬ RoomForOne (full (List.replicate 16 3)) ∧ (sample []).stack.length < 1 := by decide

/-- SWAP16 at exactly 17 elements, at full capacity; with 16. -/
theorem witness_SwapResult :
    (full (1 :: (List.replicate 15 3 ++ 2 :: []))).stack = 1 :: (List.replicate 15 3 ++ 2 :: []) ∧
    (List.replicate 15 (3 : Word)).length = 16 - 1 ∧ DepthOk (full (1 :: (List.replicate 15 3 ++ 2 :: []))) ∧
    (sample (List.replicate 16 3)).stack.length < 16 + 1 := by decide

/-- SWAP16 at exactly 17 elements, at full capacity. -/
theorem witness_SwapTwiceIsIdentity :
    16 < (full (List.replicate 17 3)).stack.length ∧ DepthOk (full (List.replicate 17 3)) := by decide

/-- PUSH32 on an empty stack and DUP16 at 16 elements, with room. -/
theorem witness_PopUndoesPushAndDup :
    ¬ TruncationFault (sample []) 32 ∧ RoomForOne (sample []) ∧ 16 ≤ (sample (List.replicate 16 3)).stack.length ∧
    RoomForOne (sample (List.replicate 16 3)) := by decide

end Sys2Proof.Tests
end

/-! PROOFS, family spec/00_scope.md. The signed view of a Word (R8): one equation per value of bit 255, its range, and
`wrap` as its inverse on both sides. The last side and the range are the library's, through `toSigned_eq_toInt`. -/

namespace Sys2Proof.Machine

/-- The first case of R8. -/
theorem toSigned_of_bit255_clear {w : Word} (h : w.getLsbD 255 = false) : toSigned w = w.toNat :=
  if_neg (by rw [h]; decide)

/-- The second case of R8. -/
theorem toSigned_of_bit255_set {w : Word} (h : w.getLsbD 255 = true) : toSigned w = w.toNat - 2 ^ 256 :=
  if_pos h

/-- The lower end of the range R8 gives. -/
theorem neg_two_pow_le_toSigned (w : Word) : -2 ^ 255 ≤ toSigned w :=
  toSigned_eq_toInt w ▸ BitVec.le_toInt w

/-- The upper end of the range R8 gives; it is not reached. -/
theorem toSigned_lt_two_pow (w : Word) : toSigned w < 2 ^ 255 :=
  toSigned_eq_toInt w ▸ BitVec.toInt_lt

/-- On the signed range `wrap` loses nothing, the converse of `wrap_toSigned`. -/
theorem toSigned_wrap {v : Int} (hlo : -2 ^ 255 ≤ v) (hhi : v < 2 ^ 255) : toSigned (wrap v) = v := by
  rw [toSigned_eq_toInt, wrap]
  exact BitVec.toInt_ofInt_eq_self (by decide) hlo hhi

/-- Settles O32: for Words by the two cases of R8 and the two ends of its range, for integers by `wrap_toInt_emod` and
`toSigned_wrap`. -/
theorem signedViewIsReversible : Obligations.SignedViewIsReversible := by
  refine ⟨fun w => ?_, wrap_toInt_emod, fun _ => toSigned_wrap⟩
  exact ⟨toSigned_of_bit255_clear, toSigned_of_bit255_set, neg_two_pow_le_toSigned w, toSigned_lt_two_pow w,
    wrap_toSigned w⟩

end Sys2Proof.Machine

/-! PROOFS, family spec/10_state.md. The run state (R29): what a step asks of it, and its encoding. The ports (R30, R34):
one equation each while the run goes on and once it has ended; the Execution Result is `success` with the stack and the
cause beside it. -/

namespace Sys2Proof.Machine

/-! ### The run state -/

theorem fetching_of_step_eq_next {s t : State} (h : step s = .next t) : s.rs = .fetching :=
  (step_cases h).1.fetching

theorem RunState.ne_fetching_of_ended {r : RunState} (h : r = .halted ∨ r = .failed) : r ≠ .fetching := by
  rintro rfl
  exact h.elim nofun nofun

theorem RunState.encoding_ne_three (r : RunState) : r.encoding ≠ 3 := by
  cases r <;> decide

/-- Settles O5: `step_cases` says a step that answers a next state was runnable, so FETCHING. -/
theorem onlyFetchingHasANextStep : Obligations.OnlyFetchingHasANextStep := by
  have start_values (cfg : Config) (code : List Byte) :
      (State.start cfg code).rs = .fetching ∧ (State.start cfg code).pc = 0 :=
    ⟨State.start_rs cfg code, State.start_pc cfg code⟩
  have ended_has_no_next (s : State) (h : s.rs = .halted ∨ s.rs = .failed) (t : State) : step s ≠ .next t :=
    fun hs => RunState.ne_fetching_of_ended h (fetching_of_step_eq_next hs)
  exact ⟨rfl, rfl, start_values, fun _ _ => fetching_of_step_eq_next, ended_has_no_next, rfl, rfl, rfl,
    RunState.encoding_ne_three⟩

/-! ### The ports -/

section
variable {s : State}

theorem State.done_eq_true_iff : s.done = true ↔ s.rs ≠ .fetching := bne_iff_ne

theorem State.done_eq_false_iff : s.done = false ↔ s.rs = .fetching := bne_eq_false_iff_eq

theorem State.success_of_fetching (h : s.rs = .fetching) : s.success = none := by
  rw [State.success, h]

/-- R30's `success = (rs == HALTED)`. -/
theorem State.success_of_ended (h : s.rs ≠ .fetching) : s.success = some (decide (s.rs = .halted)) := by
  cases hrs : s.rs with
  | fetching => exact absurd hrs h
  | halted => rw [State.success, hrs]; rfl
  | failed => rw [State.success, hrs]; rfl

theorem State.finalStack_of_done (h : s.done = true) : s.finalStack = some s.stack := if_pos h

theorem State.finalStack_of_not_done (h : s.done = false) : s.finalStack = none := if_neg (Bool.eq_false_iff.1 h)

theorem State.causeOut_of_done (h : s.done = true) : s.causeOut = some s.cause := if_pos h

theorem State.causeOut_of_not_done (h : s.done = false) : s.causeOut = none := if_neg (Bool.eq_false_iff.1 h)

/-- The Execution Result has a value exactly when `success` has one. -/
theorem State.result_eq_map_success (s : State) :
    s.result = s.success.map fun b => { success := b, finalStack := s.stack, cause := s.cause } := by
  cases hrs : s.rs <;> simp [State.result, State.success, hrs]

end

/-- Settles O14: each port by its equation before the end of the run and after it. -/
theorem successIsHalted : Obligations.SuccessIsHalted := by
  intro s
  constructor
  · intro hf
    have hd : s.done = false := State.done_eq_false_iff.2 hf
    have hs : s.success = none := State.success_of_fetching hf
    exact ⟨hd, hs, State.finalStack_of_not_done hd, State.causeOut_of_not_done hd,
      by rw [State.result_eq_map_success, hs]; rfl⟩
  · intro he
    have hd : s.done = true := State.done_eq_true_iff.2 he
    have hs : s.success = some (decide (s.rs = .halted)) := State.success_of_ended he
    exact ⟨hd, hs, State.finalStack_of_done hd, State.causeOut_of_done hd,
      by rw [State.result_eq_map_success, hs]; rfl⟩

end Sys2Proof.Machine

/-! PROOFS, family spec/20_memory.md. CODE is read-only (R21, R52): no instruction and no step touches the buffer or the
parameters, so by induction no run does, and the buffer a run starts with reads as the bytes the caller supplied. -/

namespace Sys2Proof.Machine

/-! ### What the caller lays out -/

/-- Writing at the end of a buffer makes it one byte longer. -/
theorem Memory.len_write_end (m : Memory) (b : Byte) : (m.write m.len b).len = m.len + 1 :=
  Nat.max_eq_right (Nat.le_succ m.len)

/-- Bytes laid out from the end of a buffer stand after the bytes it had. -/
theorem Memory.read_place_end {m : Memory} (h : m.wf = true) (bs : List Byte) (a : Nat) :
    (m.place m.len bs).read a = if a < m.len then m.read a else bs[a - m.len]? := by
  induction bs generalizing m with
  | nil =>
    by_cases ha : a < m.len
    · rw [if_pos ha]; rfl
    · rw [if_neg ha]; exact Memory.read_eq_none.2 (Nat.le_of_not_lt ha)
  | cons b bs ih =>
    have rest := ih (Memory.write_wf m.len b h)
    rw [Memory.len_write_end] at rest
    rw [Memory.place, rest]
    rcases lt_trichotomy a m.len with ha | rfl | ha
    · rw [if_pos (Nat.lt_succ_of_lt ha), if_pos ha, Memory.read_write_other b ha.ne ha]
    · rw [if_pos (Nat.lt_succ_self _), if_neg (lt_irrefl _), Memory.read_write_same _ b h, Nat.sub_self]; rfl
    · have past : a - m.len = (a - (m.len + 1)) + 1 := by omega
      rw [if_neg (Nat.not_lt.2 ha), if_neg ha.not_gt, past, List.getElem?_cons_succ]

/-- `CodeByte(a)` of the caller's code is the byte the caller supplied (R12, R21). -/
theorem Memory.read_ofBytes (bs : List Byte) (a : Nat) : (Memory.ofBytes bs).read a = bs[a]? :=
  Memory.read_place_end Memory.empty_wf bs a

/-! ### What an instruction, a step and a run leave alone -/

theorem exec_keeps_code_and_cfg {i : Instr} {s t : State} (h : exec i s = .next t) :
    t.code = s.code ∧ t.cfg = s.cfg := by
  rcases exec_cases h with
    ⟨-, ht⟩ | ⟨_, -, -, ht⟩ | ⟨_, -, -, ht⟩ | ⟨-, -, ht⟩ | ⟨-, ht⟩ | ⟨-, -, ht⟩ | ⟨-, -, ht⟩ <;>
  · cases ht; exact ⟨rfl, rfl⟩

theorem step_keeps_code_and_cfg {s t : State} (h : step s = .next t) : t.code = s.code ∧ t.cfg = s.cfg := by
  obtain ⟨-, ⟨-, rfl⟩ | ⟨-, _, _, -, -, hexec⟩⟩ := step_cases h
  · exact ⟨State.halt_code s, State.halt_cfg s⟩
  · exact exec_keeps_code_and_cfg hexec

section
variable {M : Host.Core} {k : Nat} {s t : M.State}

/-- A run of `k + 1` steps that answers a next state is a step and a run of `k` steps. -/
theorem run_succ_cases (h : M.run (k + 1) s = .next t) : ∃ s', M.step s = .next s' ∧ M.run k s' = .next t := by
  rw [Host.Core.run] at h
  split at h
  · next s' hs => exact ⟨s', hs, h⟩
  · cases h
  · cases h

/-- What every step keeps, every run keeps. -/
theorem run_keeps {P : M.State → Prop} (step_keeps : ∀ s t, M.step s = .next t → P s → P t)
    (h : M.run k s = .next t) (hs : P s) : P t := by
  induction k generalizing s with
  | zero => cases h; exact hs
  | succ k ih =>
    obtain ⟨s', hstep, hrun⟩ := run_succ_cases h
    exact ih hrun (step_keeps s s' hstep hs)

end

theorem run_keeps_code {k : Nat} {s t : State} (h : Host.Core.run core k s = .next t) : t.code = s.code :=
  have step_keeps (u v : State) (hstep : step u = .next v) (hu : u.code = s.code) : v.code = s.code :=
    (step_keeps_code_and_cfg hstep).1.trans hu
  run_keeps (M := core) step_keeps h rfl

/-- Settles O15: an instruction and a step leave the buffer and the parameters equal, so a run from the start ends with
the buffer it was given, which `Memory.read_ofBytes` reads. -/
theorem codeAndParametersNeverChange : Obligations.CodeAndParametersNeverChange := by
  have reads_alike {s t : State} (h : t.code = s.code ∧ t.cfg = s.cfg) :
      t.code.len = s.code.len ∧ (∀ a, t.code.read a = s.code.read a) ∧ t.cfg = s.cfg := by
    obtain ⟨hcode, hcfg⟩ := h
    rw [hcode]
    exact ⟨rfl, fun _ => rfl, hcfg⟩
  refine ⟨fun _ _ _ h => reads_alike (exec_keeps_code_and_cfg h),
    fun _ _ h => reads_alike (step_keeps_code_and_cfg h), ?_⟩
  intro cfg code k t h a
  rw [run_keeps_code h, State.start_code, Memory.read_ofBytes]

end Sys2Proof.Machine

/-! PROOFS, family spec/30_encoding.md. What the decoder reads at a byte: a PUSHn of the byte's own width, or something
the later bytes have no say in. So it is well formed, has the byte as its opcode, and takes R62's number of bytes; and the
number `be` assembles from an immediate's bytes is R10's sum. -/

namespace Sys2Proof.Machine

/-! ### The instruction an opcode byte selects -/

theorem decode_cons_eq_ok {op : Byte} {bs rest : List Byte} {i : Instr} :
    decode (op :: bs) = .ok (i, rest) ↔ decodeOpcode op bs = i ∧ bs.drop (immWidth op) = rest := by
  rw [decode, Except.ok.injEq, Prod.mk.injEq]

/-- R65: a byte of the push range is 0x5F + n. -/
theorem exists_eq_push_byte {op : Byte} (h : 0x5F ≤ op ∧ op ≤ 0x7F) : ∃ n ≤ 32, op = BitVec.ofNat 8 (0x5F + n) :=
  ⟨op.toNat - 0x5F, by bv_omega, by bv_omega⟩

/-- What holds of every PUSHn with its byte, and of every other byte with nothing after it, holds of whatever the decoder
reads. -/
theorem decodeOpcode_induction {P : Byte → Instr → Prop}
    (push : ∀ n ≤ 32, ∀ v, P (BitVec.ofNat 8 (0x5F + n)) (pushOf n v))
    (other : ∀ op : Byte, ¬ (0x5F ≤ op ∧ op ≤ 0x7F) → P op (decodeOpcode op []))
    (op : Byte) (rest : List Byte) : P op (decodeOpcode op rest) := by
  by_cases h : 0x5F ≤ op ∧ op ≤ 0x7F
  · obtain ⟨n, hn, rfl⟩ := exists_eq_push_byte h
    rw [decodeOpcode_push hn]
    exact push n hn _
  · rw [decodeOpcode_rest h]
    exact other op h

theorem decodeOpcode_opcode (op : Byte) (rest : List Byte) : (decodeOpcode op rest).opcode = op :=
  decodeOpcode_induction (P := fun op i => i.opcode = op) (fun _ hn v => pushOf_opcode hn v) (by decide) op rest

theorem decodeOpcode_wellFormed (op : Byte) (rest : List Byte) : (decodeOpcode op rest).WellFormed :=
  decodeOpcode_induction (P := fun _ i => i.WellFormed) (fun _ hn v => pushOf_wellFormed hn v) (by decide) op rest

theorem decodeOpcode_immBytes (op : Byte) (rest : List Byte) : (decodeOpcode op rest).immBytes = immWidth op :=
  decodeOpcode_induction (P := fun op i => i.immBytes = immWidth op)
    (fun _ hn v => (pushOf_immBytes hn v).trans (immWidth_push hn).symm) (by decide) op rest

/-! ### The undefined bytes -/

theorem isUndefinedByte_iff {op : Byte} : isUndefinedByte op = true ↔
    (0x0C ≤ op ∧ op ≤ 0x0F) ∨ (0x1E ≤ op ∧ op ≤ 0x4F) ∨ (0x51 ≤ op ∧ op ≤ 0x5E) ∨ 0xA0 ≤ op := by
  simp only [isUndefinedByte, Bool.or_eq_true, Bool.and_eq_true, decide_eq_true_eq, or_assoc]

/-- The decoder reads `undefined` at an undefined byte only, and keeps that byte (R69). -/
theorem decodeOpcode_eq_undefined_iff {op b : Byte} {rest : List Byte} :
    decodeOpcode op rest = .undefined b ↔ b = op ∧ isUndefinedByte op = true := by
  constructor
  · intro h
    have hb : b = op := by rw [← decodeOpcode_opcode op rest, h]; rfl
    have hw : (Instr.undefined b).WellFormed := h ▸ decodeOpcode_wellFormed op rest
    exact ⟨hb, hb ▸ hw⟩
  · rintro ⟨rfl, hu⟩
    exact decodeOpcode_undefined hu rest

/-- Settles O22: the ranges by `decodeOpcode_eq_undefined_iff`, no further byte by `immWidth_undefined`, the count by
running through the 256 bytes. -/
theorem undefinedBytesAreThe164 : Obligations.UndefinedBytesAreThe164 := by
  refine ⟨fun op => ?_, fun op b bs rest h => ?_, by decide +kernel⟩
  · rw [← isUndefinedByte_iff]
    constructor
    · rintro ⟨i, rest, b, hd, rfl⟩
      exact (decodeOpcode_eq_undefined_iff.1 (decode_cons_eq_ok.1 hd).1).2
    · intro hu
      exact ⟨.undefined op, [], op, decode_cons_eq_ok.2 ⟨decodeOpcode_undefined hu [], List.drop_nil⟩, rfl⟩
  · obtain ⟨hi, hrest⟩ := decode_cons_eq_ok.1 h
    obtain ⟨hb, hu⟩ := decodeOpcode_eq_undefined_iff.1 hi
    rw [immWidth_undefined hu] at hrest
    exact ⟨hb, hrest.symm⟩

/-! ### The immediate -/

/-- Settles O23: the decoder drops `immWidth op` bytes, and that is the number the instruction it reads has. -/
theorem opcodeAloneGivesTheLength : Obligations.OpcodeAloneGivesTheLength := by
  intro op bs i rest h
  obtain ⟨rfl, rfl⟩ := decode_cons_eq_ok.1 h
  rw [decodeOpcode_immBytes]
  exact ⟨rfl, rfl⟩

/-- R10: big-endian assembly is the sum of b_k * 256^(n-1-k). -/
theorem be_eq_sum (bs : List Byte) :
    be bs = ∑ k : Fin bs.length, (bs.get k).toNat * 256 ^ (bs.length - 1 - k.val) := by
  induction bs with
  | nil => rfl
  | cons b bs ih =>
    have shift (k : Fin bs.length) : bs.length - (k.val + 1) = bs.length - 1 - k.val := by omega
    rw [be_cons, ih]
    simp [Fin.sum_univ_succ, shift]

/-- Where an immediate's bytes are all there, the decoder assembles exactly them (R63). -/
theorem immediateAt_append (bs rest : List Byte) : immediateAt bs.length (bs ++ rest) = be bs := by
  rw [immediateAt, takePadded_eq_take (by simp), List.take_left]

/-- Settles O24: the byte 0x5F + n selects PUSHn with the number its n bytes assemble to, which is R10's sum. -/
theorem immediateIsBigEndian : Obligations.ImmediateIsBigEndian := by
  refine ⟨?_, fun _ => rfl, rfl⟩
  rintro n bs rest - hn rfl
  refine ⟨pushOf bs.length (be bs), decode_cons_eq_ok.2 ⟨?_, ?_⟩, pushOf_pushWidth hn _, ?_⟩
  · rw [decodeOpcode_push hn, immediateAt_append]
  · rw [immWidth_push hn, List.drop_left]
  · rw [pushOf_immediate hn (be_lt bs), be_eq_sum]
    rfl

end Sys2Proof.Machine

/-! PROOFS, family spec/40_execution.md. How a run halts (R81, R82), what an undefined byte does (R86), and underflow (R85),
which only an instruction with no immediate can meet: PUSHn, the one family with an immediate, requires no depth. -/

namespace Sys2Proof.Machine

open Sys2Proof.Claims

/-! ### What ends a run, at the `success` port -/

@[simp] theorem State.success_halt (s : State) : s.halt.success = some true := rfl

@[simp] theorem State.success_raise (c : Cause) (s : State) : (s.raise c).success = some false := rfl

/-! ### The instruction at pc -/

/-- Where a byte stands at pc, the fetch finds it first, and after it the bytes an immediate can take. -/
theorem State.fetchBytes_eq_cons {s : State} {op : Byte} (h : s.code.read s.pc = some op) :
    s.fetchBytes = op :: s.code.window (s.pc + 1) maxImmBytes := by
  rw [State.fetchBytes, maxInstrBytes, Nat.add_comm, Memory.window, h]

/-- A step executes the instruction that the byte at pc selects (R80). -/
theorem step_of_read {s : State} {op : Byte} (h : s.Runnable) (hop : s.code.read s.pc = some op) :
    step s = exec (decodeOpcode op (s.code.window (s.pc + 1) maxImmBytes)) s :=
  step_executes h (State.fetchBytes_eq_cons hop)

/-- Every well-formed instruction outside the push family has Format O (R60). -/
theorem oneByte_opcode {i : Instr} (hw : i.WellFormed) (hp : i.pushWidth = none) : OneByte i i.opcode := by
  rcases push_or_oneByte i hw with ⟨n, v, hn, -, rfl⟩ | ⟨-, hencode, hwidth, hdecode⟩
  · rw [pushOf_pushWidth hn] at hp
    cases hp
  · exact ⟨hencode, fun rest => decode_cons_eq_ok.2 ⟨hdecode rest, by rw [hwidth, List.drop_zero]⟩⟩

/-- A PUSHn that truncation does not stop and that has room is completed. -/
theorem pushImmediate_completes {n v : Nat} {s : State} (ht : ¬ TruncationFault s n) (hroom : RoomForOne s) :
    pushImmediate n v s = .next (completed s n (BitVec.ofNat wordBits v :: s.stack)) := by
  rw [pushImmediate, if_neg ht, dispatch_completes (Nat.zero_le _) hroom]
  rfl

/-- A step at the byte of such a PUSHn pushes a Word and leaves pc past the immediate, whatever bytes that holds. -/
theorem step_push_completes {s : State} {n : Nat} (h : s.Runnable) (hn : n ≤ 32)
    (hop : s.code.read s.pc = some (BitVec.ofNat 8 (0x5F + n))) (ht : ¬ TruncationFault s n) (hroom : RoomForOne s) :
    ∃ w, step s = .next (completed s n (w :: s.stack)) := by
  rw [step_of_read h hop, decodeOpcode_push hn, exec_pushOf hn (immediateAt_lt n _), pushImmediate_completes ht hroom]
  exact ⟨_, rfl⟩

/-! ### Underflow -/

/-- An instruction that requires some depth is of the families without an immediate (R84). -/
theorem pushWidth_eq_none_of_need_pos {i : Instr} (h : 0 < (arityOf i).need) : i.pushWidth = none := by
  cases hp : i.pushWidth with
  | none => rfl
  | some n =>
    obtain ⟨hn, hi⟩ := eq_pushOf hp
    rw [hi, pushOf_arity hn] at h
    exact absurd h (Nat.lt_irrefl 0)

theorem exec_underflow {i : Instr} {s : State} (h : s.stack.length < (arityOf i).need) :
    exec i s = .next ((s.advance 0).raise .stackUnderflow) := by
  have need_pos : 0 < (arityOf i).need := Nat.zero_lt_of_lt h
  have not_stop : i ≠ .stop := by rintro rfl; exact absurd need_pos (Nat.lt_irrefl 0)
  have defined (op : Byte) : i ≠ .undefined op := by rintro rfl; exact absurd need_pos (Nat.lt_irrefl 0)
  have no_immediate : i.immBytes = 0 := by rw [Instr.immBytes, pushWidth_eq_none_of_need_pos need_pos]; rfl
  rw [exec_eq_dispatch i s not_stop defined, no_immediate, if_neg (fun ht => Nat.lt_irrefl 0 ht.1.1),
    dispatch_underflow h]

/-- Settles O26: below its depth an instruction has no immediate, so pc past it is pc + 1. -/
theorem underflowLeavesTheStack : Obligations.UnderflowLeavesTheStack :=
  ⟨fun _ s h => ⟨exec_underflow h, State.success_raise .stackUnderflow (s.advance 0)⟩, rfl⟩

/-! ### Halting and the undefined bytes -/

/-- Settles O8: the step at or past L is `halt`, which changes rs alone. -/
theorem endOfCodeHalts : Obligations.EndOfCodeHalts :=
  fun s h he => ⟨step_end_of_code h he, State.success_halt s⟩

/-- Settles O9: the byte 0x00 at pc selects STOP, which halts; one inside an immediate that stands whole is read with it
by `step_push_completes`. -/
theorem stopHalts : Obligations.StopHalts := by
  refine ⟨oneByte_opcode rfl rfl, fun s => ⟨exec_stop s, State.success_halt s⟩, ?_, ?_, by decide⟩
  · intro s h hop
    rw [step_of_read h hop]
    exact exec_stop s
  · intro s n _ h _ _ hn hop _ hwhole hroom
    have not_truncated : ¬ TruncationFault s n := fun ht => Nat.not_le.2 hwhole ht.1.2
    exact step_push_completes h hn hop not_truncated hroom

/-- Settles O10: an undefined byte is well formed and no PUSHn, so one byte long; each policy by its case of
`exec_undefined`. -/
theorem undefinedByteSkipsOrFaults : Obligations.UndefinedByteSkipsOrFaults := by
  refine ⟨fun _ hu => oneByte_opcode hu rfl, fun op s hskip => ?_, fun op s hfault => ?_, rfl, rfl⟩
  · rcases exec_undefined op s with ⟨-, he⟩ | ⟨hp, -⟩
    · exact he
    · exact absurd (hskip.symm.trans hp) nofun
  · rcases exec_undefined op s with ⟨hp, -⟩ | ⟨-, he⟩
    · exact absurd (hfault.symm.trans hp) nofun
    · exact he

end Sys2Proof.Machine

/-! PROOFS, family spec/41_arithmetic.md. An instruction that is a binary or a ternary form obeys its rule as soon as
its function of Words is right, so each obligation comes down to lemmas about that function: which integer, or which bits,
are left once `wrap` has narrowed the exact result (R113). -/

namespace Sys2Proof.Machine

open Sys2Proof.Claims

/-! ### From the function of Words to the instruction's rule -/

theorem binaryRule_of_exec {i : Instr} {op : Byte} {f : Config → Word → Word → Word}
    {Rel : Config → Word → Word → Word → Prop} (hone : OneByte i op) (hexec : ∀ s, exec i s = binary (f s.cfg) s)
    (hrel : ∀ cfg a b, Rel cfg a b (f cfg a b)) : BinaryRule i op Rel := by
  refine ⟨hone, fun s a b S hs hfits => ⟨f s.cfg a b, hrel s.cfg a b, ?_⟩, fun s hshort => ?_⟩
  · exact (hexec s).trans (binary_completes hs hfits)
  · exact (hexec s).trans (dispatch_underflow hshort)

theorem ternaryRule_of_exec {i : Instr} {op : Byte} {f : Config → Word → Word → Word → Word}
    {Rel : Config → Word → Word → Word → Word → Prop} (hone : OneByte i op)
    (hexec : ∀ s, exec i s = ternary (f s.cfg) s) (hrel : ∀ cfg a b c, Rel cfg a b c (f cfg a b c)) :
    TernaryRule i op Rel := by
  refine ⟨hone, fun s a b c S hs hfits => ⟨f s.cfg a b c, hrel s.cfg a b c, ?_⟩, fun s hshort => ?_⟩
  · exact (hexec s).trans (ternary_completes hs hfits)
  · exact (hexec s).trans (dispatch_underflow hshort)

/-! ### Sum, product and difference -/

theorem addWord_toNat (a b : Word) : (addWord a b).toNat = (a.toNat + b.toNat) % 2 ^ 256 := by
  rw [addWord, ← Nat.cast_add, wrap_natCast_toNat]

theorem mulWord_toNat (a b : Word) : (mulWord a b).toNat = (a.toNat * b.toNat) % 2 ^ 256 := by
  rw [mulWord, ← Nat.cast_mul, wrap_natCast_toNat]

theorem subWord_toNat (a b : Word) : ((subWord a b).toNat : Int) = ((a.toNat : Int) - b.toNat) % 2 ^ 256 :=
  wrap_toInt_emod _

/-- Settles O33: `addWord` is the sum modulo 2^256. -/
theorem addResult : Obligations.AddResult :=
  binaryRule_of_exec (oneByte_opcode rfl rfl) (fun _ => rfl) fun _ => addWord_toNat

/-- Settles O34: `mulWord` is the product modulo 2^256. -/
theorem mulResult : Obligations.MulResult :=
  binaryRule_of_exec (oneByte_opcode rfl rfl) (fun _ => rfl) fun _ => mulWord_toNat

/-- Settles O35: `subWord` is the integer difference modulo 2^256. -/
theorem subResult : Obligations.SubResult :=
  binaryRule_of_exec (oneByte_opcode rfl rfl) (fun _ => rfl) fun _ => subWord_toNat

/-! ### Unsigned division, and the two modular instructions -/

theorem toNat_pos_of_ne_zero {b : Word} (h : b ≠ 0) : 0 < b.toNat :=
  Nat.pos_of_ne_zero fun h0 => h (BitVec.eq_of_toNat_eq h0)

/-- The common form of R103, R105, R107 and R108: 0 for divisor 0, else a number that fits a Word. -/
theorem zero_or_wrap_toNat {b : Word} {n : Nat} (h : 0 < b.toNat → n < 2 ^ 256) :
    (if b = 0 then 0 else wrap (n : Int) : Word).toNat = if b.toNat = 0 then 0 else n := by
  by_cases hb : b = 0
  · subst hb
    rfl
  · have hpos := toNat_pos_of_ne_zero hb
    rw [if_neg hb, if_neg hpos.ne', wrap_toNat_of_lt (h hpos)]

/-- A remainder fits a Word, whatever number is divided. -/
theorem mod_toNat_lt {b : Word} (n : Nat) (h : 0 < b.toNat) : n % b.toNat < 2 ^ 256 :=
  (Nat.mod_lt n h).trans b.isLt

theorem divWord_toNat (a b : Word) : (divWord a b).toNat = if b.toNat = 0 then 0 else a.toNat / b.toNat :=
  zero_or_wrap_toNat fun _ => (Nat.div_le_self _ _).trans_lt a.isLt

theorem modWord_toNat (a b : Word) : (modWord a b).toNat = if b.toNat = 0 then 0 else a.toNat % b.toNat :=
  zero_or_wrap_toNat (mod_toNat_lt _)

theorem addmodWord_toNat (a b m : Word) :
    (addmodWord a b m).toNat = if m.toNat = 0 then 0 else (a.toNat + b.toNat) % m.toNat :=
  zero_or_wrap_toNat (mod_toNat_lt _)

theorem mulmodWord_toNat (a b m : Word) :
    (mulmodWord a b m).toNat = if m.toNat = 0 then 0 else (a.toNat * b.toNat) % m.toNat :=
  zero_or_wrap_toNat (mod_toNat_lt _)

/-- Settles O36: a quotient of Words fits a Word. -/
theorem divResult : Obligations.DivResult :=
  binaryRule_of_exec (oneByte_opcode rfl rfl) (fun _ => rfl) fun _ => divWord_toNat

/-- Settles O38: the two cases of `modWord_toNat`. -/
theorem modResult : Obligations.ModResult := by
  refine binaryRule_of_exec (f := fun _ => modWord) (oneByte_opcode rfl rfl) (fun _ => rfl)
    fun _ a b => ⟨fun hb => ?_, fun hb => ?_⟩
  · rw [modWord_toNat, if_pos hb]
  · rw [modWord_toNat, if_neg hb]
    exact ⟨rfl, Nat.mod_lt _ (Nat.pos_of_ne_zero hb)⟩

/-- Settles O41: the sum is reduced by m only, and the remainder fits a Word. -/
theorem addmodResult : Obligations.AddmodResult :=
  ternaryRule_of_exec (oneByte_opcode rfl rfl) (fun _ => rfl) fun _ => addmodWord_toNat

/-- Settles O42: the product is reduced by m only, and the remainder fits a Word. -/
theorem mulmodResult : Obligations.MulmodResult :=
  ternaryRule_of_exec (oneByte_opcode rfl rfl) (fun _ => rfl) fun _ => mulmodWord_toNat

/-! ### Signed division -/

theorem trem_eq_tmod (A B : Int) : trem A B = Int.tmod A B := (Int.tmod_def A B).symm

theorem natAbs_tmod_lt (A : Int) {B : Int} (h : B ≠ 0) : (Int.tmod A B).natAbs < B.natAbs := by
  rw [Int.natAbs_tmod]
  exact Nat.mod_lt _ (Int.natAbs_pos.2 h)

theorem tmod_nonpos {A : Int} (B : Int) (h : A ≤ 0) : Int.tmod A B ≤ 0 := by
  have hneg : 0 ≤ Int.tmod (-A) B := Int.tmod_nonneg B (Int.neg_nonneg.2 h)
  rwa [Int.neg_tmod, Int.neg_nonneg] at hneg

theorem toInt_ne_zero_of_ne_zero {b : Word} (h : b ≠ 0) : b.toInt ≠ 0 :=
  fun h0 => h (BitVec.toInt_inj.1 h0)

theorem sdivWord_zero (a : Word) : sdivWord a 0 = 0 := if_pos rfl

theorem sdivWord_of_ne_zero (a : Word) {b : Word} (h : b ≠ 0) : sdivWord a b = wrap (Int.tdiv a.toInt b.toInt) := by
  rw [sdivWord, if_neg h, toSigned_eq_toInt, toSigned_eq_toInt, tdiv]

theorem smodWord_zero (a : Word) : smodWord a 0 = 0 := if_pos rfl

theorem smodWord_of_ne_zero (a : Word) {b : Word} (h : b ≠ 0) : smodWord a b = wrap (Int.tmod a.toInt b.toInt) := by
  rw [smodWord, if_neg h, toSigned_eq_toInt, toSigned_eq_toInt, trem_eq_tmod]

/-- The signed remainder is nearer to 0 than the divisor, so on the signed range: unlike the quotient it never wraps. -/
theorem smodWord_toInt (a : Word) {b : Word} (h : b ≠ 0) : (smodWord a b).toInt = Int.tmod a.toInt b.toInt := by
  have hlt : (Int.tmod a.toInt b.toInt).natAbs < b.toInt.natAbs := natAbs_tmod_lt _ (toInt_ne_zero_of_ne_zero h)
  have hlo : -2 ^ 255 ≤ b.toInt := BitVec.le_toInt b
  have hhi : b.toInt < 2 ^ 255 := BitVec.toInt_lt
  rw [smodWord_of_ne_zero a h, ← toSigned_eq_toInt, toSigned_wrap (by omega) (by omega)]

/-- The one quotient out of the signed range is 2^255, which wraps to -2^255 (R104). -/
theorem sdivWord_toInt_of_overflow {a b : Word} (ha : a.toInt = -2 ^ 255) (hb : b.toInt = -1) :
    (sdivWord a b).toInt = -2 ^ 255 := by
  have hne : b ≠ 0 := by rintro rfl; cases hb
  rw [sdivWord_of_ne_zero a hne, ha, hb]
  decide

/-- Settles O37: the divisor 0, `wrap` of the library's truncated quotient, and the quotient out of range. -/
theorem sdivResult : Obligations.SdivResult := by
  refine binaryRule_of_exec (f := fun _ => sdivWord) (oneByte_opcode rfl rfl) (fun _ => rfl)
    fun _ a b => ⟨?_, fun hb => ⟨?_, ?_⟩⟩
  · rintro rfl
    exact sdivWord_zero a
  · rw [sdivWord_of_ne_zero a hb, wrap_toInt_emod]
  · exact sdivWord_toInt_of_overflow

/-- Settles O39: `smodWord` is the library's truncated remainder, whose magnitude and sign these are. -/
theorem smodResult : Obligations.SmodResult := by
  refine binaryRule_of_exec (f := fun _ => smodWord) (oneByte_opcode rfl rfl) (fun _ => rfl)
    fun _ a b => ⟨?_, fun hb => ?_⟩
  · rintro rfl
    exact smodWord_zero a
  · rw [smodWord_toInt a hb]
    exact ⟨Int.tmod_def _ _, natAbs_tmod_lt _ (toInt_ne_zero_of_ne_zero hb), Int.tmod_nonneg _, tmod_nonpos _⟩

/-! ### Exponentiation -/

/-- By induction on the rounds of squaring: b^e is b^(e mod 2) times the power of the square at e div 2. -/
theorem powWord_toNat (b : Word) {fuel e : Nat} (h : e < 2 ^ fuel) :
    (powWord b fuel e).toNat = b.toNat ^ e % 2 ^ 256 := by
  induction fuel generalizing b e with
  | zero =>
    obtain rfl : e = 0 := Nat.lt_one_iff.1 h
    rfl
  | succ fuel ih =>
    have half : (powWord (mulWord b b) fuel (e / 2)).toNat = b.toNat ^ (2 * (e / 2)) % 2 ^ 256 := by
      rw [ih (mulWord b b) (by omega), mulWord_toNat, ← Nat.pow_mod, ← pow_two, ← pow_mul]
    rw [powWord]
    split
    · next hodd =>
      have he : 2 * (e / 2) + 1 = e := by omega
      rw [mulWord_toNat, half, Nat.mul_mod_mod, ← pow_succ', he]
    · next heven =>
      have he : 2 * (e / 2) = e := by omega
      rw [half, he]

/-- Settles O43: an exponent is below 2^256, so the 256 rounds of squaring are enough. -/
theorem expResult : Obligations.ExpResult :=
  binaryRule_of_exec (oneByte_opcode rfl rfl) (fun _ => rfl) fun _ a b => powWord_toNat a b.isLt

/-! ### Sign extension -/

/-- The mask with which R112 clears the bits above t. -/
theorem getLsbD_lowMask (n : Nat) {j : Nat} (hj : j < 256) : (wrap (2 ^ n - 1)).getLsbD j = decide (j < n) := by
  have hcast : (2 ^ n - 1 : Int) = (2 ^ n - 1 : Nat) := by simp [Nat.one_le_two_pow]
  rw [hcast, wrap, BitVec.ofInt_natCast, BitVec.getLsbD_ofNat, Nat.testBit_two_pow_sub_one, decide_eq_true hj,
    Bool.true_and]

/-- The mask with which R111 and R112 set the bits above t: the complement of the low one. -/
theorem getLsbD_highMask {n j : Nat} (hn : n ≤ 256) (hj : j < 256) :
    (wrap (2 ^ 256 - 2 ^ n)).getLsbD j = decide (n ≤ j) := by
  have hpos : 0 < 2 ^ n := Nat.two_pow_pos n
  have hle : 2 ^ n ≤ 2 ^ 256 := Nat.pow_le_pow_right (by decide) hn
  have hcast : (2 ^ 256 - 2 ^ n : Int) = (2 ^ 256 - (2 ^ n - 1 + 1) : Nat) := by
    rw [Nat.sub_add_cancel hpos, Nat.cast_sub hle]; simp
  rw [hcast, wrap, BitVec.ofInt_natCast, BitVec.getLsbD_ofNat, Nat.testBit_two_pow_sub_succ (by omega),
    Nat.testBit_two_pow_sub_one, decide_eq_true hj, Bool.true_and, ← decide_not]
  exact decide_eq_decide.2 Nat.not_lt

/-- R111: bit 7 set or clear. -/
theorem getLsbD_signExtendNarrow (x : Word) {j : Nat} (hj : j < 256) :
    (signExtendNarrow x).getLsbD j = (x.getLsbD j || (decide (8 ≤ j) && x.getLsbD 7)) := by
  rw [signExtendNarrow]
  split
  · next hset => rw [BitVec.getLsbD_or, getLsbD_highMask (by decide) hj, hset, Bool.and_true]
  · next hclear => rw [Bool.eq_false_iff.2 hclear, Bool.and_false, Bool.or_false]

/-- R112: the selector from 31 on, else bit t set or clear. -/
theorem getLsbD_signExtendGeneral (k x : Word) {j : Nat} (hj : j < 256) :
    (signExtendGeneral k x).getLsbD j =
      if 31 ≤ k.toNat ∨ j ≤ 8 * k.toNat + 7 then x.getLsbD j else x.getLsbD (8 * k.toNat + 7) := by
  have above_iff : 8 * k.toNat + 8 ≤ j ↔ ¬ j ≤ 8 * k.toNat + 7 := by omega
  have within_iff : j < 8 * k.toNat + 8 ↔ j ≤ 8 * k.toNat + 7 := by omega
  rw [signExtendGeneral]
  split
  · next hk => rw [if_pos (.inl hk)]
  · next hk =>
    simp only [hk, false_or]
    split
    · next hset =>
      rw [BitVec.getLsbD_or, getLsbD_highMask (by omega) hj, hset]
      by_cases hle : j ≤ 8 * k.toNat + 7 <;> simp [above_iff, hle]
    · next hclear =>
      rw [BitVec.getLsbD_and, getLsbD_lowMask _ hj, Bool.eq_false_iff.2 hclear]
      by_cases hle : j ≤ 8 * k.toNat + 7 <;> simp [within_iff, hle]

/-- Settles O44: each mode by its function, bit by bit. -/
theorem signextendResult : Obligations.SignextendResult := by
  refine ⟨binaryRule_of_exec (f := fun cfg => signExtend cfg.signExtendMode) (oneByte_opcode rfl rfl) (fun _ => rfl)
    fun cfg k x => ⟨fun hmode j hj => ?_, fun hmode j hj => ?_⟩, rfl⟩
  · rw [hmode]
    exact getLsbD_signExtendNarrow x hj
  · rw [hmode]
    exact getLsbD_signExtendGeneral k x hj

end Sys2Proof.Machine

/-! PROOFS, family spec/42_compare_bitwise.md. As in the family of arithmetic, each obligation comes down to what the
instruction's function of Words leaves: 0 or 1 by the truth of a comparison, each bit by a bit operation, or a number that
`wrap` narrows without loss. -/

namespace Sys2Proof.Machine

open Sys2Proof.Claims

theorem unaryRule_of_exec {i : Instr} {op : Byte} {f : Word → Word} {Rel : Config → Word → Word → Prop}
    (hone : OneByte i op) (hexec : ∀ s, exec i s = unary f s) (hrel : ∀ cfg a, Rel cfg a (f a)) : UnaryRule i op Rel := by
  refine ⟨hone, fun s a S hs hfits => ⟨f a, hrel s.cfg a, ?_⟩, fun s hshort => ?_⟩
  · exact (hexec s).trans (unary_completes hs hfits)
  · exact (hexec s).trans (dispatch_underflow hshort)

/-! ### Comparisons -/

/-- A Word that stands for a truth value is exactly 0 or 1 (R9, R32). -/
theorem bool2w_decide (p : Prop) [Decidable p] : bool2w (decide p) = if p then 1 else 0 := by
  by_cases hp : p
  · rw [decide_eq_true hp, if_pos hp]; rfl
  · rw [decide_eq_false hp, if_neg hp]; rfl

theorem ltWord_eq (a b : Word) : ltWord a b = if a.toNat < b.toNat then 1 else 0 := bool2w_decide _

theorem gtWord_eq (a b : Word) : gtWord a b = if b.toNat < a.toNat then 1 else 0 := bool2w_decide _

theorem sltWord_eq (a b : Word) : sltWord a b = if a.toInt < b.toInt then 1 else 0 := by
  rw [sltWord, bool2w_decide, toSigned_eq_toInt, toSigned_eq_toInt]

theorem sgtWord_eq (a b : Word) : sgtWord a b = if b.toInt < a.toInt then 1 else 0 := sltWord_eq b a

theorem eqWord_eq (a b : Word) : eqWord a b = if a.toNat = b.toNat then 1 else 0 := by
  simp only [eqWord, beq_eq_decide, bool2w_decide, BitVec.toNat_inj]

theorem isZeroWord_eq (a : Word) : isZeroWord a = if a.toNat = 0 then 1 else 0 := eqWord_eq a 0

/-- Settles O45: both are a truth value of the order of natural numbers. -/
theorem unsignedCompareResults : Obligations.UnsignedCompareResults :=
  ⟨binaryRule_of_exec (oneByte_opcode rfl rfl) (fun _ => rfl) fun _ => ltWord_eq,
   binaryRule_of_exec (oneByte_opcode rfl rfl) (fun _ => rfl) fun _ => gtWord_eq⟩

/-- Settles O46: the spec's signed view is the library's, by `toSigned_eq_toInt`. -/
theorem signedCompareResults : Obligations.SignedCompareResults :=
  ⟨binaryRule_of_exec (oneByte_opcode rfl rfl) (fun _ => rfl) fun _ => sltWord_eq,
   binaryRule_of_exec (oneByte_opcode rfl rfl) (fun _ => rfl) fun _ => sgtWord_eq⟩

/-- Settles O47: Words are equal where their numbers are, and ISZERO is EQ with 0. -/
theorem equalityResults : Obligations.EqualityResults :=
  ⟨binaryRule_of_exec (oneByte_opcode rfl rfl) (fun _ => rfl) fun _ => eqWord_eq,
   unaryRule_of_exec (oneByte_opcode rfl rfl) (fun _ => rfl) fun _ => isZeroWord_eq⟩

/-! ### Bitwise -/

/-- Settles O48: the model's operations are the library's, whose bits and whose complement these are. -/
theorem bitwiseResults : Obligations.BitwiseResults :=
  ⟨binaryRule_of_exec (oneByte_opcode rfl rfl) (fun _ => rfl) fun _ _ _ _ _ => BitVec.getLsbD_and,
   binaryRule_of_exec (oneByte_opcode rfl rfl) (fun _ => rfl) fun _ _ _ _ _ => BitVec.getLsbD_or,
   binaryRule_of_exec (oneByte_opcode rfl rfl) (fun _ => rfl) fun _ _ _ _ _ => BitVec.getLsbD_xor,
   unaryRule_of_exec (oneByte_opcode rfl rfl) (fun _ => rfl) fun _ _ => BitVec.toNat_not⟩

/-! ### Byte extraction -/

theorem byteWord_beyond {i : Word} (w : Word) (h : 31 < i.toNat) : byteWord i w = 0 := if_pos h

/-- Shifting byte i down to bit 0 and masking it leaves the bits 255 - 8i to 248 - 8i (R7, R150). -/
theorem byteWord_toNat {i : Word} (w : Word) (h : i.toNat ≤ 31) :
    (byteWord i w).toNat = (w.extractLsb' (248 - 8 * i.toNat) 8).toNat := by
  have hshift : 8 * (31 - i.toNat) = 248 - 8 * i.toNat := by omega
  have hmask : (0xFF : Word).toNat = 2 ^ 8 - 1 := by decide
  rw [byteWord, if_neg (Nat.not_lt.2 h), hshift, BitVec.toNat_and, BitVec.toNat_ushiftRight, hmask,
    Nat.and_two_pow_sub_one_eq_mod, BitVec.extractLsb'_toNat]

/-- Settles O49: the index beyond 31, and within it. -/
theorem byteResult : Obligations.ByteResult := by
  refine binaryRule_of_exec (f := fun _ => byteWord) (oneByte_opcode rfl rfl) (fun _ => rfl)
    fun _ i w => ⟨fun hi => ?_, byteWord_toNat w⟩
  rw [byteWord_beyond w hi]
  rfl

/-! ### Shifts -/

theorem shlWord_toNat (s v : Word) :
    (shlWord s v).toNat = if 256 ≤ s.toNat then 0 else (v.toNat * 2 ^ s.toNat) % 2 ^ 256 := by
  rw [shlWord]
  split
  · rfl
  · exact_mod_cast wrap_natCast_toNat (v.toNat * 2 ^ s.toNat)

theorem shrWord_toNat (s v : Word) :
    (shrWord s v).toNat = if 256 ≤ s.toNat then 0 else v.toNat / 2 ^ s.toNat := by
  rw [shrWord]
  split
  · rfl
  · exact wrap_toNat_of_lt ((Nat.div_le_self _ _).trans_lt v.isLt)

/-- Settles O50: SHL is reduced by `wrap`, and a quotient of a Word fits a Word. -/
theorem logicalShiftResults : Obligations.LogicalShiftResults :=
  ⟨binaryRule_of_exec (oneByte_opcode rfl rfl) (fun _ => rfl) fun _ => shlWord_toNat,
   binaryRule_of_exec (oneByte_opcode rfl rfl) (fun _ => rfl) fun _ => shrWord_toNat⟩

theorem sarWord_toInt_of_ge {s : Word} (v : Word) (h : 256 ≤ s.toNat) :
    (sarWord s v).toInt = if 0 ≤ v.toInt then 0 else -1 := by
  rw [sarWord, if_pos h, toSigned_eq_toInt]
  split
  · rfl
  · decide

/-- Floor division by a positive number does not leave the signed range, so it never wraps. -/
theorem wrap_toInt_ediv (v : Word) {d : Int} (hd : 0 < d) : (wrap (v.toInt / d)).toInt = v.toInt / d := by
  have hlo : -2 ^ 255 ≤ v.toInt / d := by
    rw [Int.le_ediv_iff_mul_le hd]
    exact (by omega : -2 ^ 255 * d ≤ -2 ^ 255).trans (BitVec.le_toInt v)
  have hhi : v.toInt / d < 2 ^ 255 := by
    rw [Int.ediv_lt_iff_lt_mul hd]
    exact BitVec.toInt_lt.trans_le (by omega : (2 : Int) ^ 255 ≤ 2 ^ 255 * d)
  rw [← toSigned_eq_toInt, toSigned_wrap hlo hhi]

/-- Below 256 the shift is floor division by 2^s (R153). -/
theorem sarWord_toInt_of_lt {s : Word} (v : Word) (h : ¬ 256 ≤ s.toNat) :
    (sarWord s v).toInt = ⌊(v.toInt : ℚ) / 2 ^ s.toNat⌋ := by
  have hpos : (0 : Int) < 2 ^ s.toNat := by positivity
  have hfloor : ⌊(v.toInt : ℚ) / 2 ^ s.toNat⌋ = v.toInt / 2 ^ s.toNat := by
    exact_mod_cast Rat.floor_intCast_div_natCast v.toInt (2 ^ s.toNat)
  rw [sarWord, if_neg h, toSigned_eq_toInt, Int.fdiv_eq_ediv_of_nonneg _ hpos.le, wrap_toInt_ediv v hpos, hfloor]

/-- Settles O51: the amounts from 256 on, and those below. -/
theorem arithmeticShiftResult : Obligations.ArithmeticShiftResult := by
  refine binaryRule_of_exec (f := fun _ => sarWord) (oneByte_opcode rfl rfl) (fun _ => rfl) fun _ s v => ?_
  split
  · next h => exact sarWord_toInt_of_ge v h
  · next h => exact sarWord_toInt_of_lt v h

end Sys2Proof.Machine

/-! PROOFS, family spec/43_stack.md. Each family is dispatch with its row of the arity table (R84) and a transformer of the
stack, so each obligation comes down to what the transformer leaves and to the depth after it: one more for PUSHn and
DUPn, the same for SWAPn, one less for POP. For PUSHn the value comes with it: a Word holds every immediate, and the
immediate the decoder reads is made of the bytes of CODE, a missing one reading as 0x00 (R46). -/

namespace Sys2Proof.Machine

open Sys2Proof.Claims

/-! ### PUSH0 to PUSH32 -/

theorem pushImmediate_truncated {n : Nat} (v : Nat) {s : State} (ht : TruncationFault s n) :
    pushImmediate n v s = .next (s.raise .truncatedImmediate) := if_pos ht

theorem pushImmediate_overflows {n : Nat} (v : Nat) {s : State} (ht : ¬ TruncationFault s n) (hfull : ¬ RoomForOne s) :
    pushImmediate n v s = .next (faultedPast s n .stackOverflow) := by
  rw [pushImmediate, if_neg ht, dispatch_overflow (Nat.zero_le _) (Bool.eq_false_iff.2 hfull)]
  rfl

/-- Zero-extension: the widest immediate, of 32 bytes, is a Word (R63). -/
theorem toNat_ofNat_immediate {n v : Nat} (hn : n ≤ 32) (hv : v < 256 ^ n) : (BitVec.ofNat wordBits v).toNat = v := by
  have fits_word : v < 2 ^ wordBits :=
    calc v < 256 ^ n := hv
      _ ≤ 256 ^ 32 := Nat.pow_le_pow_right (by decide) hn
      _ = 2 ^ wordBits := by norm_num
  rw [BitVec.toNat_ofNat, Nat.mod_eq_of_lt fits_word]

/-- The bytes the decoder takes, one by one. -/
theorem takePadded_eq_map (n : Nat) (bs : List Byte) : takePadded n bs = (List.range n).map fun k => bs[k]?.getD 0 := by
  induction n generalizing bs with
  | zero => rfl
  | succ n ih => cases bs <;> simp [takePadded, ih, List.range_succ_eq_map, Function.comp_def]

/-- An immediate read from a window of CODE is the number its bytes at the offsets from `a` on make (R181). -/
theorem immediateAt_window (m : Memory) (a : Nat) {n k : Nat} (h : n ≤ k) :
    immediateAt n (m.window a k) = be ((List.range n).map fun j => (m.read (a + j)).getD 0) := by
  rw [immediateAt, takePadded_eq_map]
  congr 1
  refine List.map_congr_left fun j hj => ?_
  have hjk : j < k := (List.mem_range.1 hj).trans_le h
  rw [Memory.window_getElem?, if_pos hjk]

/-- What a step pushes at the byte of a PUSHn, as `step_push_completes` leaves it out: the immediate the decoder reads. -/
theorem step_pushes_immediate {s : State} {n : Nat} (h : s.Runnable) (hn : n ≤ 32)
    (hop : s.code.read s.pc = some (BitVec.ofNat 8 (0x5F + n))) (ht : ¬ TruncationFault s n) (hroom : RoomForOne s) :
    step s = .next (completed s n
      (BitVec.ofNat wordBits (immediateAt n (s.code.window (s.pc + 1) maxImmBytes)) :: s.stack)) := by
  rw [step_of_read h hop, decodeOpcode_push hn, exec_pushOf hn (immediateAt_lt n _), pushImmediate_completes ht hroom]

/-- Settles O53: the three outcomes of `pushImmediate`; at the byte 0x5F + n a step is PUSHn of the number that
`immediateAt_window` gives. -/
theorem pushResult : Obligations.PushResult := by
  intro n hn
  refine ⟨fun v hv => ?_, fun s h hop ht hroom => ?_⟩
  · rw [encode_pushOf hn hv]
    refine ⟨by rw [List.length_cons, beBytes_length, Nat.add_comm], rfl, fun s => ?_⟩
    rw [exec_pushOf hn hv]
    exact ⟨pushImmediate_truncated v,
      fun ht hroom => ⟨_, toNat_ofNat_immediate hn hv, pushImmediate_completes ht hroom⟩,
      pushImmediate_overflows v⟩
  · refine ⟨_, ?_, step_pushes_immediate h hn hop ht hroom⟩
    rw [toNat_ofNat_immediate hn (immediateAt_lt n _), immediateAt_window _ _ hn]

/-! ### DUP1 to DUP16 -/

/-- Format O (R60), from what a ranged family says of its byte. -/
theorem oneByte_of_decodeOpcode {i : Instr} {op : Byte} (hencode : encode i = [op]) (hwidth : immWidth op = 0)
    (hdecode : ∀ rest, decodeOpcode op rest = i) : OneByte i op :=
  ⟨hencode, fun rest => decode_cons_eq_ok.2 ⟨hdecode rest, by rw [hwidth, List.drop_zero]⟩⟩

theorem dupStack_of_getElem? {n : Nat} {S : List Word} {v : Word} (h : S[n - 1]? = some v) : dupStack n S = v :: S := by
  rw [dupStack, h]

theorem duplicate_completes {n : Nat} {s : State} {v : Word} (hn : n ≤ s.stack.length) (hv : s.stack[n - 1]? = some v)
    (hroom : RoomForOne s) : duplicate n s = .next (completed s 0 (v :: s.stack)) := by
  rw [duplicate, dispatch_completes hn hroom, dupStack_of_getElem? hv]
  rfl

theorem duplicate_overflows {n : Nat} {s : State} (hn : n ≤ s.stack.length) (hfull : ¬ RoomForOne s) :
    duplicate n s = .next (faultedPast s 0 .stackOverflow) :=
  dispatch_overflow hn (Bool.eq_false_iff.2 hfull)

theorem duplicate_underflows {n : Nat} {s : State} (hn : s.stack.length < n) :
    duplicate n s = .next (faultedPast s 0 .stackUnderflow) :=
  dispatch_underflow hn

/-- Settles O54: the three outcomes of `duplicate`. -/
theorem dupResult : Obligations.DupResult := by
  intro n h1 h16
  have hexec (s : State) : exec (dupOf n) s = duplicate n s := exec_dupOf h1 h16 s
  refine ⟨oneByte_of_decodeOpcode (encode_dupOf h1 h16) (immWidth_dup h1 h16) (decodeOpcode_dup h1 h16),
    fun s v hv hroom => ?_, fun s hn hfull => ?_, fun s hn => ?_⟩
  · have hlt : n - 1 < s.stack.length := (List.getElem?_eq_some_iff.1 hv).1
    exact (hexec s).trans (duplicate_completes (by omega) hv hroom)
  · exact (hexec s).trans (duplicate_overflows hn hfull)
  · exact (hexec s).trans (duplicate_underflows hn)

/-! ### SWAP1 to SWAP16 -/

/-- The two exchanged elements, with what stands between and below them. -/
theorem swapStack_cons (t v : Word) (mid S : List Word) :
    swapStack (mid.length + 1) (t :: (mid ++ v :: S)) = v :: (mid ++ t :: S) := by
  simp [swapStack]

theorem exchange_completes {s : State} {t v : Word} {mid S : List Word} (hs : s.stack = t :: (mid ++ v :: S))
    (hdepth : DepthOk s) : exchange (mid.length + 1) s = .next (completed s 0 (v :: (mid ++ t :: S))) := by
  have deep_enough : mid.length + 1 + 1 ≤ s.stack.length := by simp [hs]
  rw [exchange, dispatch_completes deep_enough hdepth, hs, swapStack_cons]
  rfl

theorem exchange_underflows {n : Nat} {s : State} (hn : s.stack.length < n + 1) :
    exchange n s = .next (faultedPast s 0 .stackUnderflow) :=
  dispatch_underflow hn

/-- Settles O55: the two outcomes of `exchange`; the depth does not change, so it stays within capacity. -/
theorem swapResult : Obligations.SwapResult := by
  intro n h1 h16
  have hexec (s : State) : exec (swapOf n) s = exchange n s := exec_swapOf h1 h16 s
  refine ⟨oneByte_of_decodeOpcode (encode_swapOf h1 h16) (immWidth_swap h1 h16) (decodeOpcode_swap h1 h16),
    fun s t v mid S hs hmid hdepth => ?_, fun s hn => ?_⟩
  · obtain rfl : n = mid.length + 1 := by omega
    exact (hexec s).trans (exchange_completes hs hdepth)
  · exact (hexec s).trans (exchange_underflows hn)

/-! ### POP -/

theorem execPop_completes {s : State} {a : Word} {S : List Word} (hs : s.stack = a :: S) (hdepth : DepthOk s) :
    execPop s = .next (completed s 0 S) := by
  have deep_enough : 1 ≤ s.stack.length := by simp [hs]
  have stays_within : fits s.cfg.stackCapacity (Arity.pop.depthAfter s.stack.length) = true :=
    fits_of_le (Nat.sub_le _ 1) hdepth
  rw [execPop, dispatch_completes deep_enough stays_within, hs]
  rfl

/-- Settles O52: POP is a defined instruction without an immediate, and the depth after it is smaller. -/
theorem popResult : Obligations.PopResult := by
  refine ⟨oneByte_opcode rfl rfl, fun s a S => execPop_completes, fun s hs => exec_underflow ?_⟩
  rw [hs]
  exact Nat.one_pos

end Sys2Proof.Machine

/-! PROOFS, family spec/60_exceptions.md. Fault entry (R306): from a state that has not failed, FAILED is reached by
`raise` alone, from a state that differs from the one before the instruction in pc at most. -/

namespace Sys2Proof.Machine

/-! ### How a run fails -/

/-- An instruction fails by raising a fault; a halt, a skipped byte and a completed instruction do not enter FAILED. -/
theorem exec_fails_by_raise {i : Instr} {s t : State} (h : exec i s = .next t) (hs : s.rs ≠ .failed)
    (ht : t.rs = .failed) : ∃ p c, c ≠ .none ∧ t = State.raise c { s with pc := p } := by
  rcases exec_cases h with
    ⟨-, stop⟩ | ⟨_, -, -, skip⟩ | ⟨_, -, -, unknown⟩ | ⟨-, -, truncated⟩ | ⟨-, underflow⟩ | ⟨-, -, overflow⟩ |
    ⟨-, -, completed⟩
  · cases stop; cases ht
  · cases skip; exact absurd ht hs
  · cases unknown; exact ⟨_, .unknownOpcode, nofun, rfl⟩
  · cases truncated; exact ⟨_, .truncatedImmediate, nofun, rfl⟩
  · cases underflow; exact ⟨_, .stackUnderflow, nofun, rfl⟩
  · cases overflow; exact ⟨_, .stackOverflow, nofun, rfl⟩
  · cases completed; exact absurd ht hs

/-- A step fails only by an instruction that does: at the end of the code the run halts (R81). -/
theorem step_fails_by_raise {s t : State} (h : step s = .next t) (ht : t.rs = .failed) :
    ∃ p c, c ≠ .none ∧ t = State.raise c { s with pc := p } := by
  obtain ⟨hr, ⟨-, rfl⟩ | ⟨-, _, _, -, -, hexec⟩⟩ := step_cases h
  · cases ht
  · have not_failed : s.rs ≠ .failed := by rw [hr.fetching]; exact nofun
    exact exec_fails_by_raise hexec not_failed ht

/-! ### What the interface presents -/

/-- Settles O25: the state after the step is a `raise`, and the ports of a run that has ended present its stack, which is
the one before the instruction, and its cause. -/
theorem faultsKeepTheStack : Obligations.FaultsKeepTheStack := by
  intro s t h ht
  obtain ⟨p, c, hc, rfl⟩ := step_fails_by_raise h ht
  have hd : (State.raise c { s with pc := p }).done = true := rfl
  exact ⟨rfl, hc, hd, State.success_raise c _, State.finalStack_of_done hd, State.causeOut_of_done hd⟩

end Sys2Proof.Machine

/-! PROOFS, family spec/70_reset_and_hazards.md. What the start of an invocation leaves in each element of the state (R330);
the length of CODE follows from what its offsets read. -/

namespace Sys2Proof.Machine

/-- L of the caller's code is the number of bytes supplied: the buffer reads nothing exactly where the sequence ends. -/
theorem Memory.len_ofBytes (bs : List Byte) : (Memory.ofBytes bs).len = bs.length := by
  have ends_alike (a : Nat) : (Memory.ofBytes bs).len ≤ a ↔ bs.length ≤ a := by
    rw [← Memory.read_eq_none, Memory.read_ofBytes, List.getElem?_eq_none_iff]
  exact eq_of_forall_ge_iff ends_alike

/-- Settles O1: the elements of `State.start` one by one, CODE by its length and what its offsets read; that the parameters
stay is `step_keeps_code_and_cfg`. -/
theorem startLeavesResetState : Obligations.StartLeavesResetState := by
  refine ⟨fun cfg code => ?_, fun _ _ h => (step_keeps_code_and_cfg h).2, rfl⟩
  have no_success : (State.start cfg code).success = none := State.success_of_fetching (State.start_rs cfg code)
  exact ⟨State.start_stack cfg code, State.start_pc cfg code, State.start_rs cfg code, State.start_cause cfg code,
    State.start_cfg cfg code, no_success, Memory.len_ofBytes code, Memory.read_ofBytes code⟩

end Sys2Proof.Machine

/-! PROOFS, family other: what an instruction and a step can come to. An instruction halts, raises a fault, or is completed
with its transformer of the stack; so does the step that executes it. From this follow the invariant and what a step does
to the pc. -/

namespace Sys2Proof.Machine

open Sys2Proof.Claims

/-! ### The outcomes of an instruction and of a step -/

/-- The seven answers of `exec_cases` by what becomes of the run: STOP halts it, a fault keeps everything but the pc, and
an instruction that completes (a skipped byte included) moves the pc past itself and keeps the depth within capacity. -/
theorem exec_outcomes {i : Instr} {s t : State} (h : exec i s = .next t) :
    (i = .stop ∧ t = s.halt) ∨
    (∃ p c, (p = s.pc ∨ p = s.pc + 1 + i.immBytes) ∧ c ≠ .none ∧ t = State.raise c { s with pc := p }) ∨
    ((arityOf i).need ≤ s.stack.length ∧ (DepthOk s → DepthOk t) ∧
      t = completed s i.immBytes (computeOf s.cfg i s.stack)) := by
  rcases exec_cases h with
    ⟨hi, stop⟩ | ⟨_, rfl, -, skip⟩ | ⟨_, rfl, -, unknown⟩ | ⟨-, -, truncated⟩ | ⟨-, underflow⟩ | ⟨-, -, overflow⟩ |
    ⟨hneed, hfits, complete⟩
  · cases stop; exact .inl ⟨hi, rfl⟩
  · cases skip; exact .inr (.inr ⟨Nat.zero_le _, id, rfl⟩)
  · cases unknown; exact .inr (.inl ⟨_, .unknownOpcode, .inr rfl, nofun, rfl⟩)
  · cases truncated; exact .inr (.inl ⟨_, .truncatedImmediate, .inl rfl, nofun, rfl⟩)
  · cases underflow; exact .inr (.inl ⟨_, .stackUnderflow, .inr rfl, nofun, rfl⟩)
  · cases overflow; exact .inr (.inl ⟨_, .stackOverflow, .inr rfl, nofun, rfl⟩)
  · cases complete
    have depth : (computeOf s.cfg i s.stack).length = (arityOf i).depthAfter s.stack.length :=
      (computeOf_local s.cfg i).depth s.stack hneed
    refine .inr (.inr ⟨hneed, fun _ => ?_, rfl⟩)
    rw [DepthOk, State.setStack_stack, depth]
    exact hfits

/-- An offset that has a byte is below L (R40). -/
theorem Memory.lt_of_read {m : Memory} {a : Nat} {b : Byte} (h : m.read a = some b) : a < m.len := by
  by_contra hge
  rw [Memory.read_eq_none.2 (Nat.not_lt.1 hge)] at h
  cases h

/-- The outcomes of the instruction at pc, said of the step; the end of the code is one more way to halt (R81). -/
theorem step_outcomes {s t : State} (h : step s = .next t) :
    t = s.halt ∨ ∃ op, s.code.read s.pc = some op ∧
      ((∃ p c, (p = s.pc ∨ p = s.pc + 1 + immWidth op) ∧ c ≠ .none ∧ t = State.raise c { s with pc := p }) ∨
       ∃ S, (DepthOk s → DepthOk t) ∧ t = completed s (immWidth op) S) := by
  obtain ⟨-, ⟨-, rfl⟩ | ⟨-, op, rest, -, hop, hexec⟩⟩ := step_cases h
  · exact .inl rfl
  · have outcomes := exec_outcomes hexec
    rw [decodeOpcode_immBytes] at outcomes
    rcases outcomes with ⟨-, stop⟩ | fault | ⟨-, hdepth, complete⟩
    · exact .inl stop
    · exact .inr ⟨op, hop, .inl fault⟩
    · exact .inr ⟨op, hop, .inr ⟨_, hdepth, complete⟩⟩

/-! ### The pc -/

/-- No immediate is longer than MAX_IMM_BYTES (R5, R62). -/
theorem immWidth_le (op : Byte) : immWidth op ≤ maxImmBytes := by
  revert op; decide

/-- A step leaves the pc, or moves it past the instruction at it. -/
theorem step_pc_cases {s t : State} (h : step s = .next t) :
    t.pc = s.pc ∨ ∃ op, s.code.read s.pc = some op ∧ t.pc = s.pc + 1 + immWidth op := by
  rcases step_outcomes h with rfl | ⟨op, hop, ⟨_, _, rfl | rfl, -, rfl⟩ | ⟨_, -, rfl⟩⟩
  · exact .inl rfl
  · exact .inl rfl
  · exact .inr ⟨op, hop, rfl⟩
  · exact .inr ⟨op, hop, rfl⟩

/-- Settles O16: where the pc moves, it was below L and moves by at most 1 + 32; of the outcomes of a step only a completed
instruction stays in FETCHING, and only a halt is HALTED. -/
theorem pcOnlyAdvances : Obligations.PcOnlyAdvances := by
  intro s t h
  have moved : s.pc ≤ t.pc ∧ (s.pc ≤ s.code.len + 32 → t.pc ≤ s.code.len + 32) := by
    rcases step_pc_cases h with same | ⟨op, hop, past⟩
    · omega
    · have inside : s.pc < s.code.len := Memory.lt_of_read hop
      have width : immWidth op ≤ 32 := immWidth_le op
      omega
  obtain ⟨advances, bound⟩ := moved
  have fetching : s.rs = .fetching := fetching_of_step_eq_next h
  rcases step_outcomes h with rfl | ⟨op, hop, ⟨_, _, -, -, rfl⟩ | ⟨S, -, rfl⟩⟩
  · exact ⟨advances, nofun, fun _ => rfl, bound⟩
  · exact ⟨advances, nofun, nofun, bound⟩
  · exact ⟨advances, fun _ => ⟨op, hop, rfl⟩, fun halted => absurd (fetching.symm.trans halted) nofun, bound⟩

/-- Settles O60: a runnable state steps, and of the outcomes only a completed instruction, whose byte is inside CODE, goes
on. -/
theorem stepEndsTheRunOrRaisesPc : Obligations.StepEndsTheRunOrRaisesPc := by
  intro s hs
  obtain ⟨t, h⟩ := step_answers_next hs
  refine ⟨t, h, (pcOnlyAdvances s t h).1, ?_⟩
  rcases step_outcomes h with rfl | ⟨op, hop, ⟨p, c, -, -, rfl⟩ | ⟨S, -, rfl⟩⟩
  · exact .inl rfl
  · exact .inr (.inl rfl)
  · exact .inr (.inr ⟨hs.fetching, Memory.lt_of_read hop, Nat.le_add_right _ _⟩)

/-! ### The invariant -/

theorem step_keeps_depth {s t : State} (h : step s = .next t) (hs : DepthOk s) : DepthOk t := by
  rcases step_outcomes h with rfl | ⟨_, -, ⟨_, _, -, -, rfl⟩ | ⟨_, hdepth, -⟩⟩
  · exact hs
  · exact hs
  · exact hdepth hs

/-- Fault entry writes a cause that is not NONE, and nothing else writes one (R31, R306). -/
theorem step_keeps_cause_iff {s t : State} (h : step s = .next t) (hs : s.cause ≠ .none ↔ s.rs = .failed) :
    t.cause ≠ .none ↔ t.rs = .failed := by
  have no_cause : ¬ s.cause ≠ .none := by
    rw [hs, fetching_of_step_eq_next h]
    exact nofun
  rcases step_outcomes h with rfl | ⟨_, -, ⟨_, c, -, hc, rfl⟩ | ⟨_, -, rfl⟩⟩
  · exact iff_of_false no_cause nofun
  · exact iff_of_true hc rfl
  · exact hs

/-- Settles O3, one lemma per condition of the invariant. -/
theorem stepKeepsInvariant : Obligations.StepKeepsInvariant := by
  intro s t hs h
  obtain ⟨same_code, same_cfg⟩ := step_keeps_code_and_cfg h
  obtain ⟨-, -, -, pc_bound⟩ := pcOnlyAdvances s t h
  exact {
    codeWf := same_code ▸ hs.codeWf
    admitted := (State.codeAdmitted_congr same_code same_cfg).trans hs.admitted
    pcBound := same_code ▸ pc_bound hs.pcBound
    stackFits := step_keeps_depth h hs.stackFits
    causeIff := step_keeps_cause_iff h hs.causeIff }

theorem fits_zero (c : Capacity) : fits c 0 = true := by
  cases c with
  | unbounded => rfl
  | atMost k => exact fits_atMost.2 (Nat.zero_le k)

theorem State.start_inv {cfg : Config} {code : List Byte} (h : (State.start cfg code).codeAdmitted = true) :
    (State.start cfg code).Inv where
  codeWf := Memory.ofBytes_wf code
  admitted := h
  pcBound := Nat.zero_le _
  stackFits := fits_zero cfg.stackCapacity
  causeIff := iff_of_false (not_not_intro rfl) nofun

/-- Settles O2: reset is the start without code, so both are `State.start_inv`. -/
theorem resetMeetsInvariant : Obligations.ResetMeetsInvariant :=
  ⟨State.reset_eq_start ▸ State.start_inv rfl, fun _ _ => State.start_inv⟩

/-- I10: code is refused only where it is longer than CODE_LEN_MAX. -/
theorem State.codeAdmitted_iff {s : State} :
    s.codeAdmitted = true ↔ ∀ l, s.cfg.limits = some l → s.code.len ≤ l.codeLenMax := by
  cases hl : s.cfg.limits <;> simp [State.codeAdmitted, hl]

/-- Settles O4: pc is at most L + 32, L at most CODE_LEN_MAX, and CODE_LEN_MAX + 33 at most 2^PC_BITS. -/
theorem pcFitsItsBits : Obligations.PcFitsItsBits := by
  intro s l hs hl
  have pc_bound : s.pc ≤ s.code.len + 32 := hs.pcBound
  have code_bound : s.code.len ≤ l.codeLenMax := State.codeAdmitted_iff.1 hs.admitted l hl
  have bits : l.codeLenMax + 33 ≤ 2 ^ l.pcBits := l.pcFits
  omega

/-! ### When a step answers -/

theorem step_of_not_admitted {s : State} (hf : s.rs = .fetching) (ha : s.codeAdmitted = false) :
    step s = .refused .codeTooLong := by
  simp [step, hf, ha]

/-- Settles O6: from FETCHING a step on admitted code answers a next state and on any other is refused. -/
theorem stepAnswersUnlessCodeTooLong : Obligations.StepAnswersUnlessCodeTooLong := by
  intro s hf
  have too_long : (∃ l, s.cfg.limits = some l ∧ l.codeLenMax < s.code.len) ↔ ¬ s.codeAdmitted = true := by
    rw [State.codeAdmitted_iff]
    push Not
    rfl
  rw [← State.codeAdmitted_iff, too_long]
  cases ha : s.codeAdmitted with
  | true =>
    obtain ⟨t, h⟩ := step_answers_next ⟨hf, ha⟩
    simp [h]
  | false => simp [step_of_not_admitted hf ha]

/-- Settles O59: `step` on an ended run is `endOfRun`, by run state. -/
theorem endedRunsStopByName : Obligations.EndedRunsStopByName :=
  ⟨fun _ => step_halted, fun _ => step_failed⟩

/-- Settles O58: with no code, pc = 0 is at the end of it. -/
theorem resetIsStartWithoutCode : Obligations.ResetIsStartWithoutCode :=
  ⟨State.reset_eq_start, rfl, step_end_of_code ⟨rfl, rfl⟩ le_rfl⟩

end Sys2Proof.Machine

/-! PROOFS, family other: the decoder and the encoder as inverses (R60 to R65). An encoding is the opcode byte and the bytes
of the immediate, so each direction is that byte, that width and that number. -/

namespace Sys2Proof.Machine

/-- Settles O19: a PUSHn reads back its number, which its bytes hold whole; every other instruction is one byte long and
read from it whatever stands after it. -/
theorem decodeInvertsEncode : Obligations.DecodeInvertsEncode := by
  intro i rest hw
  rcases push_or_oneByte i hw with ⟨n, v, hn, hv, rfl⟩ | ⟨-, hencode, hwidth, hdecode⟩
  · rw [encode_pushOf hn hv, List.cons_append, decode_cons_eq_ok]
    refine ⟨?_, ?_⟩
    · rw [decodeOpcode_push hn, immediateAt_beBytes, Nat.mod_eq_of_lt hv]
    · rw [immWidth_push hn, List.drop_left' (beBytes_length n v)]
  · rw [hencode, List.singleton_append, decode_cons_eq_ok]
    exact ⟨hdecode rest, by rw [hwidth, List.drop_zero]⟩

/-- The immediate of what the decoder reads is the number at the head of the bytes after the opcode byte (R63). -/
theorem decodeOpcode_immediate (op : Byte) (rest : List Byte) :
    (decodeOpcode op rest).immediate = immediateAt (immWidth op) rest := by
  by_cases h : 0x5F ≤ op ∧ op ≤ 0x7F
  · obtain ⟨n, hn, rfl⟩ := exists_eq_push_byte h
    rw [decodeOpcode_push hn, immWidth_push hn, pushOf_immediate hn (immediateAt_lt n rest)]
  · have no_immediate : ∀ op : Byte, ¬ (0x5F ≤ op ∧ op ≤ 0x7F) →
        (decodeOpcode op []).immediate = 0 ∧ immWidth op = 0 := by decide
    obtain ⟨himm, hwidth⟩ := no_immediate op h
    rw [decodeOpcode_rest h, himm, hwidth]
    rfl

/-- Where the bytes of an immediate are all there, the instruction read encodes as the opcode byte and them. -/
theorem encode_decodeOpcode {op : Byte} {bs : List Byte} (h : immWidth op ≤ bs.length) :
    encode (decodeOpcode op bs) = op :: bs.take (immWidth op) := by
  have bytes : beBytes (immWidth op) (be (bs.take (immWidth op))) = bs.take (immWidth op) := by
    simpa [h] using beBytes_be (bs.take (immWidth op))
  rw [encode, decodeOpcode_opcode, decodeOpcode_immBytes, decodeOpcode_immediate, immediateAt, takePadded_eq_take h,
    bytes]

/-- Settles O20: the empty sequence is not read; otherwise the encoding takes the bytes that the decoder drops. -/
theorem encodeInvertsDecode : Obligations.EncodeInvertsDecode := by
  intro bs i rest h
  cases bs with
  | nil => cases h
  | cons op bs =>
    obtain ⟨rfl, rfl⟩ := decode_cons_eq_ok.1 h
    refine ⟨decodeOpcode_wellFormed op bs, fun whole => ?_⟩
    rw [decodeOpcode_immBytes, List.length_cons] at whole
    rw [encode_decodeOpcode (Nat.le_of_lt_succ whole), List.cons_append, List.take_append_drop]

/-- Settles O21: the words are the encodings of the instructions beside them, with the bytes that are left over. -/
theorem decodesWrittenWords : Obligations.DecodesWrittenWords :=
  ⟨decodeInvertsEncode .stop [] rfl, decodeInvertsEncode .exp [0xFF] rfl, decodeInvertsEncode .iszero [] rfl,
   decodeInvertsEncode .sar [] rfl, decodeInvertsEncode (.push3 0x000102) [0x50] rfl,
   decodeInvertsEncode .dup16 [] rfl, decodeInvertsEncode .swap1 [] rfl,
   decodeInvertsEncode (.undefined 0xFE) [0x60] rfl⟩

/-- An instruction has an opcode byte and at most MAX_IMM_BYTES more (R5, R60). -/
theorem encode_length_le (i : Instr) (hw : i.WellFormed) : (encode i).length ≤ maxInstrBytes := by
  rcases push_or_oneByte i hw with ⟨n, v, hn, hv, rfl⟩ | ⟨-, hencode, -, -⟩
  · rw [encode_pushOf hn hv, List.length_cons, beBytes_length, maxInstrBytes, Nat.add_comm]
    exact Nat.add_le_add_left hn 1
  · rw [hencode]
    exact Nat.le_add_right 1 maxImmBytes

/-- The fetch finds an instruction whose bytes stand at pc, and whatever stands after it. -/
theorem State.encode_isPrefix_fetchBytes {s : State} {i : Instr} (hw : i.WellFormed)
    (hbytes : ∀ k b, (encode i)[k]? = some b → s.code.read (s.pc + k) = some b) : encode i <+: s.fetchBytes := by
  rw [List.prefix_iff_getElem?]
  intro k hk
  rw [State.fetchBytes, Memory.window_getElem?, if_pos (hk.trans_le (encode_length_le i hw))]
  exact hbytes k _ (List.getElem?_eq_getElem hk)

/-- Settles O7: the fetched bytes begin with the encoding, which the decoder reads back. -/
theorem stepRunsDecodedInstruction : Obligations.StepRunsDecodedInstruction := by
  intro s i hs hw hbytes
  obtain ⟨rest, hfetch⟩ := State.encode_isPrefix_fetchBytes hw hbytes
  rw [step_of_runnable hs, stepFetching, ← hfetch, decodeInvertsEncode i rest hw]

end Sys2Proof.Machine

/-! PROOFS, family other: the code buffer as data. It holds the caller's bytes, and the canonical form leaves one way to
write a buffer down. -/

namespace Sys2Proof.Machine

/-- Settles O17, by the three laws of `Memory.ofBytes`. -/
theorem codeBufferHoldsTheBytes : Obligations.CodeBufferHoldsTheBytes :=
  fun bs => ⟨Memory.ofBytes_wf bs, Memory.len_ofBytes bs, Memory.read_ofBytes bs⟩

section
variable {len lo k : Nat} {b : Byte} {cs : List Host.Cell}

/-- The canonical form, of the first cell and of those after it. -/
theorem cellsWf_cons : cellsWf len lo ((k, b) :: cs) = true ↔
    lo ≤ k ∧ k < len ∧ b ≠ Memory.unlisted ∧ cellsWf len (k + 1) cs = true := by
  simp [cellsWf, and_assoc]

theorem lookupCell_cons_same : lookupCell k ((k, b) :: cs) = b := if_pos rfl

theorem lookupCell_cons_other {a : Nat} (h : k ≠ a) : lookupCell a ((k, b) :: cs) = lookupCell a cs := if_neg h

/-- Below its first offset a cell list gives no byte of its own. -/
theorem lookupCell_below {a : Nat} (h : cellsWf len lo cs = true) (ha : a < lo) :
    lookupCell a cs = Memory.unlisted := by
  induction cs generalizing lo with
  | nil => rfl
  | cons x cs ih =>
    obtain ⟨k, b⟩ := x
    obtain ⟨hk, -, -, hcs⟩ := cellsWf_cons.1 h
    rw [lookupCell_cons_other (by omega), ih hcs (by omega)]

/-- A list whose first cell is at `k` reads otherwise there than one that begins later. -/
theorem lookupCell_head_ne {lo' : Nat} {cs' : List Host.Cell} (h : cellsWf len lo ((k, b) :: cs) = true)
    (h' : cellsWf len lo' cs' = true) (hlt : k < lo') : lookupCell k ((k, b) :: cs) ≠ lookupCell k cs' := by
  obtain ⟨-, -, hb, -⟩ := cellsWf_cons.1 h
  rwa [lookupCell_cons_same, lookupCell_below h' hlt]

end

/-- Two canonical cell lists that read alike are the same list: neither can begin before the other, so they begin with
the same cell, and after it they read alike again. -/
theorem cells_eq_of_lookupCell_eq {len lo : Nat} {cs cs' : List Host.Cell} (h : cellsWf len lo cs = true)
    (h' : cellsWf len lo cs' = true) (alike : ∀ a < len, lookupCell a cs = lookupCell a cs') : cs = cs' := by
  induction cs generalizing lo cs' with
  | nil =>
    cases cs' with
    | nil => rfl
    | cons y cs' =>
      obtain ⟨k', b'⟩ := y
      obtain ⟨-, hk', hb', -⟩ := cellsWf_cons.1 h'
      exact absurd ((alike k' hk').trans lookupCell_cons_same).symm hb'
  | cons x cs ih =>
    obtain ⟨k, b⟩ := x
    obtain ⟨hlo, hk, hb, hcs⟩ := cellsWf_cons.1 h
    cases cs' with
    | nil => exact absurd (lookupCell_cons_same.symm.trans (alike k hk)) hb
    | cons y cs' =>
      obtain ⟨k', b'⟩ := y
      obtain ⟨hlo', hk', -, hcs'⟩ := cellsWf_cons.1 h'
      rcases lt_trichotomy k k' with hlt | rfl | hlt
      · have later : cellsWf len k' ((k', b') :: cs') = true := cellsWf_cons.2 ⟨le_rfl, (cellsWf_cons.1 h').2⟩
        exact absurd (alike k hk) (lookupCell_head_ne h later hlt)
      · have same_byte : b = b' := lookupCell_cons_same.symm.trans ((alike k hk).trans lookupCell_cons_same)
        have rest_alike (a : Nat) (ha : a < len) : lookupCell a cs = lookupCell a cs' := by
          by_cases hka : k = a
          · subst hka
            rw [lookupCell_below hcs (Nat.lt_succ_self k), lookupCell_below hcs' (Nat.lt_succ_self k)]
          · rw [← lookupCell_cons_other hka, alike a ha, lookupCell_cons_other hka]
        rw [same_byte, ih hcs hcs' rest_alike]
      · have later : cellsWf len k ((k, b) :: cs) = true := cellsWf_cons.2 ⟨le_rfl, (cellsWf_cons.1 h).2⟩
        exact absurd (alike k' hk').symm (lookupCell_head_ne h' later hlt)

/-- Settles O18: below L both buffers read what their cells give. -/
theorem equalBuffersAreEqualData : Obligations.EqualBuffersAreEqualData := by
  rintro ⟨len, cells⟩ ⟨len', cells'⟩ hwf hwf' rfl alike
  have cells_alike (a : Nat) (ha : a < len) : lookupCell a cells = lookupCell a cells' := by
    simpa [Memory.read, ha] using alike a
  exact congrArg (Memory.mk len) (cells_eq_of_lookupCell_eq hwf hwf' cells_alike)

end Sys2Proof.Machine

/-! PROOFS, family other: runs. Every step that goes on raises the pc, so a run ends within L + 1 steps (R89); it ends in one
state only, and `execute` presents that state (R90). -/

namespace Sys2Proof.Machine

/-! ### The end of a run -/

/-- A run begins with its first step. -/
theorem run_succ {M : Host.Core} {s s' : M.State} (h : M.step s = .next s') (k : Nat) :
    M.run (k + 1) s = M.run k s' := by
  rw [Host.Core.run, h]

section
variable {s t : State}

/-- From a runnable state with at most `n` bytes of code at or after the pc the run ends within `n + 1` steps. -/
theorem run_ends {n : Nat} (hs : s.Runnable) (hn : s.code.len ≤ s.pc + n) :
    ∃ k t, k ≤ n + 1 ∧ Host.Core.run core k s = .next t ∧ (t.rs = .halted ∨ t.rs = .failed) := by
  induction n generalizing s with
  | zero => exact ⟨1, s.halt, le_rfl, run_succ (M := core) (step_end_of_code hs hn) 0, .inl rfl⟩
  | succ n ih =>
    obtain ⟨t, h, -, halted | failed | ⟨fetching, -, pc_raised⟩⟩ := stepEndsTheRunOrRaisesPc s hs
    · exact ⟨1, t, by omega, run_succ (M := core) h 0, .inl halted⟩
    · exact ⟨1, t, by omega, run_succ (M := core) h 0, .inr failed⟩
    · obtain ⟨same_code, same_cfg⟩ := step_keeps_code_and_cfg h
      have runnable : t.Runnable := ⟨fetching, (State.codeAdmitted_congr same_code same_cfg).trans hs.admitted⟩
      have nearer : t.code.len ≤ t.pc + n := by rw [same_code]; omega
      obtain ⟨k, u, hk, hrun, ended⟩ := ih runnable nearer
      exact ⟨k + 1, u, Nat.succ_le_succ hk, (run_succ (M := core) h k).trans hrun, ended⟩

/-- Settles O12: at the start all L bytes of the code are at or after the pc. -/
theorem everyRunEnds : Obligations.EveryRunEnds := by
  intro cfg code admitted
  refine run_ends ⟨State.start_rs cfg code, admitted⟩ ?_
  rw [State.start_code, Memory.len_ofBytes]
  exact Nat.le_add_left _ _

/-- A state whose run has ended is the only one a run from it reaches. -/
theorem run_of_ended {k : Nat} (ended : s.rs ≠ .fetching) (h : Host.Core.run core k s = .next t) : t = s := by
  cases k with
  | zero => cases h; rfl
  | succ k =>
    obtain ⟨_, hstep, -⟩ := run_succ_cases (M := core) h
    exact absurd (fetching_of_step_eq_next hstep) ended

/-- Two runs from one state that have ended have ended in the same state. -/
theorem run_end_unique {k k' : Nat} {t' : State} (h : Host.Core.run core k s = .next t) (ht : t.rs ≠ .fetching)
    (h' : Host.Core.run core k' s = .next t') (ht' : t'.rs ≠ .fetching) : t' = t := by
  induction k generalizing s k' with
  | zero => cases h; exact run_of_ended ht h'
  | succ k ih =>
    obtain ⟨u, hstep, hrun⟩ := run_succ_cases (M := core) h
    cases k' with
    | zero => cases h'; exact absurd (fetching_of_step_eq_next hstep) ht'
    | succ k' => exact ih hrun ((run_succ (M := core) hstep k').symm.trans h')

/-! ### The loop -/

theorem loop_of_ended (fuel : Nat) (h : s.rs ≠ .fetching) : loop fuel s = .next s := by
  cases fuel with
  | zero => rfl
  | succ fuel =>
    cases hrs : s.rs with
    | fetching => exact absurd hrs h
    | halted => rw [loop, hrs]
    | failed => rw [loop, hrs]

theorem loop_succ {s' : State} (h : step s = .next s') (fuel : Nat) : loop (fuel + 1) s = loop fuel s' := by
  rw [loop, fetching_of_step_eq_next h, h]

/-- Given enough fuel the loop stops in the state in which the run of steps ends. -/
theorem loop_of_run {k fuel : Nat} (h : Host.Core.run core k s = .next t) (ht : t.rs ≠ .fetching) (hk : k ≤ fuel) :
    loop fuel s = .next t := by
  induction k generalizing s fuel with
  | zero => cases h; exact loop_of_ended fuel ht
  | succ k ih =>
    obtain ⟨u, hstep, hrun⟩ := run_succ_cases (M := core) h
    obtain ⟨fuel, rfl⟩ := Nat.exists_eq_add_of_le' (Nat.one_le_of_lt hk)
    rw [loop_succ hstep]
    exact ih hrun (Nat.le_of_succ_le_succ hk)

theorem State.result_of_ended (h : s.rs ≠ .fetching) :
    s.result = some { success := decide (s.rs = .halted), finalStack := s.stack, cause := s.cause } :=
  ((successIsHalted s).2 h).2.2.2.2

end

/-- Settles O13: the loop stops in the state that `everyRunEnds` gives, and no run ends in another. -/
theorem executePresentsTheFinalState : Obligations.ExecutePresentsTheFinalState := by
  intro cfg code admitted
  obtain ⟨k, t, hk, hrun, ended⟩ := everyRunEnds cfg code admitted
  have not_fetching : t.rs ≠ .fetching := RunState.ne_fetching_of_ended ended
  refine ⟨{ success := decide (t.rs = .halted), finalStack := t.stack, cause := t.cause }, ?_, ?_⟩
  · rw [execute, loop_of_run hrun not_fetching hk]
    exact State.result_of_ended not_fetching
  · intro k' t' hrun' ended'
    rw [run_end_unique hrun not_fetching hrun' ended']
    exact ⟨decide_eq_true_iff, rfl, rfl⟩

end Sys2Proof.Machine

/-! PROOFS, family other: depth, frames and operands. A completed instruction is its transformer of the stack, which is
`Local` in its row of the arity table: it splits the stack at the required depth, changes what is above and keeps what is
below. -/

namespace Sys2Proof.Machine

open Sys2Proof.Claims

/-! ### What a completed instruction leaves -/

/-- An instruction that does not fail found its required depth and leaves its transformer of the stack. -/
theorem exec_completes {i : Instr} {s t : State} (h : exec i s = .next t) (ht : t.rs ≠ .failed) :
    (arityOf i).need ≤ s.stack.length ∧ t.stack = computeOf s.cfg i s.stack := by
  rcases exec_outcomes h with ⟨rfl, rfl⟩ | ⟨_, _, -, -, rfl⟩ | ⟨hneed, -, rfl⟩
  · exact ⟨Nat.zero_le _, rfl⟩
  · exact absurd rfl ht
  · exact ⟨hneed, rfl⟩

section
variable {ar : Arity} {c : List Word → List Word} {S : List Word}

/-- A local transformer works on the topmost `need` elements and puts the others back under them. -/
theorem Local.eq_append (hc : Local ar c) (hS : ar.need ≤ S.length) :
    c S = c (S.take ar.need) ++ S.drop ar.need := by
  have top : (S.take ar.need).length = ar.need := List.length_take_of_le hS
  rw [← hc.append _ _ top.ge, List.take_append_drop]

theorem Local.length_take (hc : Local ar c) (hS : ar.need ≤ S.length) :
    (c (S.take ar.need)).length = ar.depthAfter ar.need := by
  have top : (S.take ar.need).length = ar.need := List.length_take_of_le hS
  rw [hc.depth _ top.ge, top]

theorem Local.take_eq (hc : Local ar c) (hS : ar.need ≤ S.length) :
    (c S).take (ar.depthAfter ar.need) = c (S.take ar.need) := by
  rw [hc.eq_append hS]
  exact List.take_left' (hc.length_take hS)

theorem Local.drop_eq (hc : Local ar c) (hS : ar.need ≤ S.length) :
    (c S).drop (ar.depthAfter ar.need) = S.drop ar.need := by
  rw [hc.eq_append hS]
  exact List.drop_left' (hc.length_take hS)

end

/-- No instruction requires a deeper stack than SWAP16 (R84). -/
theorem need_le (i : Instr) : (arityOf i).need ≤ 17 := by
  cases i <;> exact Nat.le_of_ble_eq_true rfl

/-- Settles O29: the table row by row, then the depth that a local transformer leaves. -/
theorem depthFollowsTheArityTable : Obligations.DepthFollowsTheArityTable := by
  refine ⟨⟨rfl, by decide, rfl, rfl, rfl, rfl, rfl, fun _ v hn => pushOf_arity hn v, fun _ => dupOf_arity,
    fun _ => swapOf_arity⟩, ?_⟩
  intro i s t _ h ht
  obtain ⟨hneed, hstack⟩ := exec_completes h ht
  rw [hstack]
  exact ⟨hneed, (computeOf_local s.cfg i).depth s.stack hneed⟩

/-- Settles O30, by `Local.drop_eq`. -/
theorem deepStackIsUntouched : Obligations.DeepStackIsUntouched := by
  intro i s t _ h ht
  obtain ⟨hneed, hstack⟩ := exec_completes h ht
  rw [hstack]
  exact ⟨need_le i, (computeOf_local s.cfg i).drop_eq hneed⟩

/-- Settles O31: by `Local.take_eq` the part in question is the transformer of the operands, which are the same. -/
theorem resultsDependOnOperandsAlone : Obligations.ResultsDependOnOperandsAlone := by
  intro i s s' t t' hcfg hoperands _ _ h h' ht ht'
  obtain ⟨hneed, hstack⟩ := exec_completes h ht
  obtain ⟨hneed', hstack'⟩ := exec_completes h' ht'
  have left : t.stack.take ((arityOf i).depthAfter (arityOf i).need) =
      computeOf s.cfg i (s.stack.take (arityOf i).need) := by
    rw [hstack, (computeOf_local s.cfg i).take_eq hneed]
  have right : t'.stack.take ((arityOf i).depthAfter (arityOf i).need) =
      computeOf s'.cfg i (s'.stack.take (arityOf i).need) := by
    rw [hstack', (computeOf_local s'.cfg i).take_eq hneed']
  rw [← hcfg, ← hoperands] at right
  exact left.trans right.symm

/-! ### Overflow -/

/-- Only PUSHn and DUPn leave the stack deeper than they found it (R84). -/
theorem push_or_dup_of_grows {i : Instr} (h : (arityOf i).pops < (arityOf i).pushes) :
    i.pushWidth ≠ none ∨ 1 ≤ (arityOf i).need ∧ (arityOf i).need ≤ 16 ∧ i = dupOf (arityOf i).need := by
  revert h
  cases i <;> simp [arityOf, Arity.none, Arity.unary, Arity.binary, Arity.ternary, Arity.pop, Arity.push,
    Arity.duplicate, Arity.swap, Instr.pushWidth, dupOf]

/-- No instruction adds more than one element (R84). -/
theorem pushes_le_pops_add_one (i : Instr) : (arityOf i).pushes ≤ (arityOf i).pops + 1 := by
  cases i <;> exact Nat.le_of_ble_eq_true rfl

/-- The elements an instruction removes are among those it requires (R84). -/
theorem pops_le_need (i : Instr) : (arityOf i).pops ≤ (arityOf i).need := by
  cases i <;> exact Nat.le_of_ble_eq_true rfl

/-- STACK_OVERFLOW is raised by the overflow test of dispatch and nothing else (R300, R304). -/
theorem overflow_of_exec {i : Instr} {s t : State} (h : exec i s = .next t) (hs : s.cause ≠ .stackOverflow)
    (ht : t.cause = .stackOverflow) :
    (arityOf i).need ≤ s.stack.length ∧
      fits s.cfg.stackCapacity ((arityOf i).depthAfter s.stack.length) = false := by
  rcases exec_cases h with
    ⟨-, stop⟩ | ⟨_, -, -, skip⟩ | ⟨_, -, -, unknown⟩ | ⟨-, -, truncated⟩ | ⟨-, underflow⟩ | ⟨hneed, hfull, -⟩ |
    ⟨-, -, complete⟩
  · cases stop; exact absurd ht hs
  · cases skip; exact absurd ht hs
  · cases unknown; cases ht
  · cases truncated; cases ht
  · cases underflow; cases ht
  · exact ⟨hneed, hfull⟩
  · cases complete; exact absurd ht hs

/-- Settles O27: `overflow_of_exec` in each capacity; from a depth within a finite one the result depth is past it only
if the instruction grows the stack, by one element. -/
theorem overflowOnlyAtFiniteCapacity : Obligations.OverflowOnlyAtFiniteCapacity := by
  refine ⟨?_, ?_, ?_, ?_, rfl, rfl⟩
  · intro i s c hstop hdefined hcap hwhole hneed hover
    have hfull : fits s.cfg.stackCapacity ((arityOf i).depthAfter s.stack.length) = false := by
      rw [hcap]
      exact fits_atMost_eq_false.2 hover
    rw [exec_eq_dispatch i s hstop hdefined, if_neg hwhole, dispatch_overflow hneed hfull]
    rfl
  · intro i s t c hcap h hs hwithin ht
    obtain ⟨-, hfull⟩ := overflow_of_exec h hs ht
    rw [hcap, fits_atMost_eq_false] at hfull
    exact absurd hwithin (Nat.not_le.2 hfull)
  · intro i s t c hcap hdepth h hs ht
    obtain ⟨hneed, hfull⟩ := overflow_of_exec h hs ht
    rw [hcap, fits_atMost_eq_false, Arity.depthAfter] at hfull
    rw [DepthOk, hcap, fits_atMost] at hdepth
    have by_one : (arityOf i).pushes ≤ (arityOf i).pops + 1 := pushes_le_pops_add_one i
    have required : (arityOf i).pops ≤ (arityOf i).need := pops_le_need i
    have grows : (arityOf i).pops < (arityOf i).pushes := by omega
    refine ⟨by omega, ?_⟩
    rcases push_or_dup_of_grows grows with hpush | ⟨h1, h16, hdup⟩
    · obtain ⟨n, hn⟩ := Option.ne_none_iff_exists'.1 hpush
      obtain ⟨h32, hi⟩ := eq_pushOf hn
      exact .inl ⟨n, _, h32, hi⟩
    · exact .inr ⟨_, h1, h16, hdup⟩
  · intro i s t hcap h hs ht
    obtain ⟨-, hfull⟩ := overflow_of_exec h hs ht
    rw [hcap, fits_unbounded] at hfull
    cases hfull

/-! ### The order of the conditions -/

section
variable {s t : State}

theorem exec_undefined_condition {op : Byte} (hs : s.rs = .fetching) (h : exec (.undefined op) s = .next t) :
    if s.cfg.unknownOpcodePolicy = .skip then t.rs = .fetching ∧ t.cause = s.cause
    else t.rs = .failed ∧ t.cause = .unknownOpcode := by
  rcases exec_undefined op s with ⟨hpolicy, skip⟩ | ⟨hpolicy, fault⟩
  · cases h.symm.trans skip
    rw [if_pos hpolicy]
    exact ⟨hs, rfl⟩
  · cases h.symm.trans fault
    rw [if_neg (by rw [hpolicy]; exact nofun)]
    exact ⟨rfl, rfl⟩

/-- Underflow before overflow (R80, D15). -/
theorem dispatch_first_condition {n : Nat} {ar : Arity} {c : List Word → List Word} (hs : s.rs = .fetching)
    (h : s.dispatch n ar c = .next t) :
    if s.stack.length < ar.need then t.rs = .failed ∧ t.cause = .stackUnderflow
    else if fits s.cfg.stackCapacity (ar.depthAfter s.stack.length) = false then
      t.rs = .failed ∧ t.cause = .stackOverflow
    else t.rs = .fetching ∧ t.cause = s.cause := by
  rcases dispatch_cases h with ⟨hshort, underflow⟩ | ⟨hneed, hfull, overflow⟩ | ⟨hneed, hfits, complete⟩
  · cases underflow
    rw [if_pos hshort]
    exact ⟨rfl, rfl⟩
  · cases overflow
    rw [if_neg (Nat.not_lt.2 hneed), if_pos hfull]
    exact ⟨rfl, rfl⟩
  · cases complete
    rw [if_neg (Nat.not_lt.2 hneed), if_neg (by rw [hfits]; exact nofun)]
    exact ⟨hs, rfl⟩

end

/-- Settles O11: the end of the code comes first; inside the code STOP, the undefined bytes and truncation are the tests
that come before dispatch, in that order. -/
theorem firstConditionWins : Obligations.FirstConditionWins := by
  intro s t hs h
  obtain ⟨-, ⟨hend, rfl⟩ | ⟨hpc, op, rest, hbytes, -, hexec⟩⟩ := step_cases h
  · exact .inl ⟨hend, rfl, rfl⟩
  have read : decode s.fetchBytes = .ok (decodeOpcode op rest, rest.drop (immWidth op)) := by rw [hbytes]; rfl
  refine .inr ⟨_, _, read, hpc, ?_⟩
  generalize decodeOpcode op rest = i at hexec
  split
  · next hstop =>
    rw [hstop, exec_stop] at hexec
    cases hexec
    exact ⟨rfl, rfl⟩
  next not_stop =>
  split
  · next hundefined =>
    rw [hundefined] at hexec
    exact exec_undefined_condition hs.fetching hexec
  next hdefined =>
  rw [exec_eq_dispatch i s not_stop (fun _ hi => hdefined (by rw [hi]; rfl))] at hexec
  split
  · next htruncated =>
    rw [if_pos (and_assoc.2 htruncated)] at hexec
    cases hexec
    exact ⟨rfl, rfl⟩
  · next hwhole =>
    rw [if_neg (fun htruncated => hwhole (and_assoc.1 htruncated))] at hexec
    exact dispatch_first_condition hs.fetching hexec

end Sys2Proof.Machine

/-! PROOFS, family other: pairs of instructions that undo or complete each other, and the truncated immediate. -/

namespace Sys2Proof.Machine

open Sys2Proof.Claims

/-! ### SDIV and SMOD -/

theorem wrap_toInt (w : Word) : wrap w.toInt = w := BitVec.ofInt_toInt

theorem wrap_add (v w : Int) : wrap (v + w) = wrap v + wrap w := BitVec.ofInt_add v w

theorem wrap_mul (v w : Int) : wrap (v * w) = wrap v * wrap w := BitVec.ofInt_mul v w

/-- The integer identity of quotient and remainder, narrowed: `wrap` keeps sums and products (R6). -/
theorem eq_mul_sdivWord_add_smodWord (a : Word) {b : Word} (hb : b ≠ 0) : a = b * sdivWord a b + smodWord a b :=
  calc a = wrap a.toInt := (wrap_toInt a).symm
    _ = wrap (b.toInt * Int.tdiv a.toInt b.toInt + Int.tmod a.toInt b.toInt) := by rw [Int.mul_tdiv_add_tmod]
    _ = wrap b.toInt * wrap (Int.tdiv a.toInt b.toInt) + wrap (Int.tmod a.toInt b.toInt) := by
      rw [wrap_add, wrap_mul]
    _ = b * sdivWord a b + smodWord a b := by rw [wrap_toInt, sdivWord_of_ne_zero a hb, smodWord_of_ne_zero a hb]

/-- Settles O40: both instructions complete, with the results that `eq_mul_sdivWord_add_smodWord` pairs. -/
theorem sdivAndSmodPairUp : Obligations.SdivAndSmodPairUp :=
  fun _ a _ _ hs hdepth hb =>
    ⟨_, _, binary_completes hs hdepth, binary_completes hs hdepth, eq_mul_sdivWord_add_smodWord a hb⟩

/-! ### SWAPn twice; POP after PUSHn and DUPn -/

/-- A stack deeper than n ≥ 1, with the two elements that SWAPn exchanges written out. -/
theorem exists_swap_form {n : Nat} {S : List Word} (h1 : 1 ≤ n) (h : n < S.length) :
    ∃ t v mid rest, S = t :: (mid ++ v :: rest) ∧ mid.length = n - 1 := by
  cases S with
  | nil => cases h
  | cons t S =>
    have hlt : n - 1 < S.length := by rw [List.length_cons] at h; omega
    refine ⟨t, S[n - 1], S.take (n - 1), S.drop n, ?_, List.length_take_of_le hlt.le⟩
    have below : S.drop (n - 1) = S[n - 1] :: S.drop n := by
      rw [List.drop_eq_getElem_cons hlt, Nat.sub_add_cancel h1]
    rw [← below, List.take_append_drop]

/-- Settles O56: `swapResult` twice, the second time with the two elements in each other's place. -/
theorem swapTwiceIsIdentity : Obligations.SwapTwiceIsIdentity := by
  intro n s h1 h16 hdeep hdepth
  obtain ⟨-, swaps, -⟩ := swapResult n h1 h16
  obtain ⟨t, v, mid, S, hs, hmid⟩ := exists_swap_form h1 hdeep
  refine ⟨_, swaps s t v mid S hs hmid hdepth, ?_⟩
  rw [hs]
  refine swaps (completed s 0 (v :: (mid ++ t :: S))) v t mid S rfl hmid ?_
  have same_depth : (v :: (mid ++ t :: S)).length = s.stack.length := by simp [hs]
  show fits s.cfg.stackCapacity (v :: (mid ++ t :: S)).length = true
  rw [same_depth]
  exact hdepth

/-- POP takes back an element that was put on a stack with room for it. -/
theorem execPop_completed (n : Nat) (w : Word) {s : State} (hroom : RoomForOne s) :
    exec .pop (completed s n (w :: s.stack)) = .next (completed (completed s n (w :: s.stack)) 0 s.stack) :=
  execPop_completes rfl hroom

/-- PUSHn of any number is PUSHn of the immediate that its bytes hold. -/
theorem exec_pushOf_immediate {n : Nat} (hn : n ≤ 32) (v : Nat) (s : State) :
    exec (pushOf n v) s = pushImmediate n (pushOf n v).immediate s := by
  obtain ⟨-, same⟩ := eq_pushOf (pushOf_pushWidth hn v)
  have fits_bytes : (pushOf n v).immediate < 256 ^ n := by
    simpa [pushOf_immBytes hn] using immediate_lt (pushOf n v)
  rw [← exec_pushOf hn fits_bytes, ← same]

/-- Settles O57: both families put one element on the stack, and POP takes it back. -/
theorem popUndoesPushAndDup : Obligations.PopUndoesPushAndDup := by
  constructor
  · intro n v s hn hwhole hroom
    have pushed := (exec_pushOf_immediate hn v s).trans (pushImmediate_completes hwhole hroom)
    exact ⟨_, pushed, execPop_completed n _ hroom⟩
  · intro n s h1 h16 hdeep hroom
    have hlt : n - 1 < s.stack.length := by omega
    have copied := duplicate_completes hdeep (List.getElem?_eq_getElem hlt) hroom
    exact ⟨_, (exec_dupOf h1 h16 s).trans copied, execPop_completed 0 _ hroom⟩

/-! ### The truncated immediate -/

theorem be_append (bs cs : List Byte) : be (bs ++ cs) = be bs * 256 ^ cs.length + be cs := by
  rw [be, List.foldl_append, foldl_be cs]
  rfl

theorem be_replicate_zero (k : Nat) : be (List.replicate k 0) = 0 := by
  induction k with
  | zero => rfl
  | succ k ih => rw [List.replicate_succ, be_cons, ih]; simp

/-- Missing bytes read as 0x00 at the low end of the number (R46). -/
theorem immediateAt_short {n : Nat} {bs : List Byte} (h : bs.length ≤ n) :
    immediateAt n bs = be bs * 256 ^ (n - bs.length) := by
  rw [immediateAt, takePadded_short h, be_append, be_replicate_zero, List.length_replicate, Nat.add_zero]

/-- A window that reaches the end of the code does not depend on its size. -/
theorem Memory.window_eq_of_le (m : Memory) {a n k : Nat} (hn : m.len - a ≤ n) (hk : m.len - a ≤ k) :
    m.window a n = m.window a k := by
  apply List.ext_getElem?
  intro j
  rw [Memory.window_getElem?, Memory.window_getElem?]
  by_cases hj : j < m.len - a
  · rw [if_pos (hj.trans_le hn), if_pos (hj.trans_le hk)]
  · have past : m.read (a + j) = none := Memory.read_eq_none.2 (by omega)
    rw [past, ite_self, ite_self]

/-- The immediate read at the end of the code: the bytes that are present, and zeros for the others. -/
theorem immediateAt_truncated {m : Memory} {p n : Nat} (hp : p < m.len) (hn : n ≤ 32) (htrunc : m.len ≤ p + n) :
    immediateAt n (m.window (p + 1) maxImmBytes) =
      be (m.window (p + 1) (m.len - (p + 1))) * 256 ^ (p + n - m.len + 1) := by
  have present : (m.window (p + 1) (m.len - (p + 1))).length = m.len - (p + 1) := by
    rw [Memory.window_length, Nat.min_self]
  have missing : n - (m.len - (p + 1)) = p + n - m.len + 1 := by omega
  rw [Memory.window_eq_of_le m (show m.len - (p + 1) ≤ maxImmBytes by rw [maxImmBytes]; omega) le_rfl,
    immediateAt_short (by rw [present]; omega), present, missing]

/-- Settles O28: under ZeroPad the step pushes what `immediateAt_truncated` gives and leaves the pc past the end of the
code; under Fault PUSHn raises before it moves the pc. -/
theorem truncatedImmediatePadsOrFaults : Obligations.TruncatedImmediatePadsOrFaults := by
  refine ⟨fun s n hs h1 hn hop htrunc => ⟨fun hpad hroom => ?_, fun hfault => ?_⟩, rfl, rfl⟩
  · have inside : s.pc < s.code.len := Memory.lt_of_read hop
    have no_fault : ¬ TruncationFault s n := fun h => absurd (hpad.symm.trans h.2) nofun
    have value := immediateAt_truncated inside hn htrunc
    have pushed := step_pushes_immediate hs hn hop no_fault hroom
    have small : immediateAt n (s.code.window (s.pc + 1) maxImmBytes) < 2 ^ 256 := by
      rw [← toNat_ofNat_immediate hn (immediateAt_lt n _)]
      exact BitVec.isLt _
    rw [value] at pushed small
    have past : s.code.len < s.pc + 1 + n := by omega
    exact ⟨pushed, small, past, step_end_of_code ⟨hs.fetching, hs.admitted⟩ past.le⟩
  · rw [step_of_read hs hop, decodeOpcode_push hn, exec_pushOf hn (immediateAt_lt n _),
      pushImmediate_truncated _ ⟨⟨h1, htrunc⟩, hfault⟩]
    rfl

end Sys2Proof.Machine
